-- ==== Sys2Proof/Word.lean ====
section
/-! DEFINITION. The word types of the Zilweiq: bytes, 64-bit register words, and sparse tables keyed by number. -/

namespace Sys2Proof

/-- One byte of memory (R20). -/
abbrev Byte := BitVec 8

/-- One 64-bit register, command-record or transaction word (R20, R21). -/
abbrev W64 := BitVec 64

/-- A stream id, 0x0000 to 0xFFFF (R185). -/
abbrev StreamId := BitVec 16

/-- A node id (R352). -/
abbrev NodeId := BitVec 16

/-- A tile number: cluster times 16 plus slot (R33). -/
abbrev TileNo := BitVec 8

/-- A 16-bit status code (R23). -/
abbrev Status := BitVec 16

/-- A sparse table: key and value pairs, keys strictly rising, no entry equal to the table's default. -/
abbrev Tbl (α : Type) := List (Nat × α)

end Sys2Proof
end

