-- ==== Sys2Proof/Syntax.lean ====
section
/-! DEFINITION. The commands of the block: one constructor per row of spec/opcode_table.json, with the operands
its rule names. The table gives no operand bits. -/

namespace Sys2Proof

/-- The two steps that a record row names: the record is consumed, checked and accepted or refused (R213), or
the running command has its effects (R223). -/
inductive Phase where
  | consume
  | run
deriving DecidableEq, Repr

/-- The steps of an OPT_UPDATE: those of a record row, and a fault that the residue of a lane of unit k finds before the running command's
chunk is staged (R413), with whether its verdict is lasting (R427). -/
inductive OptPhase where
  | consume
  | run
  | laneFault (k : Fin 8) (lasting : Bool)
deriving DecidableEq, Repr

/-- The steps that every record row has. -/
def Phase.opt : Phase → OptPhase
  | .consume => .consume
  | .run => .run

/-- A pseudo-channel of an HBM stack (R288). -/
structure Channel where
  stack : Fin 8
  pc : BitVec 5
deriving DecidableEq, Repr

/-- The slots of a bundle (R150). -/
inductive TileSlot where
  | c | x | m | v0 | v1 | e
deriving DecidableEq, Repr

/-- An L6 part whose loss R50 describes. -/
inductive Part where
  | diePair (n : Fin 4)
  | stack (k : Fin 8)
  | io0
  | io1
  | engine (p : Fin 8)
deriving DecidableEq, Repr

/-- The transport of an SPDM message (R557). -/
inductive Transport where
  | doe
  | mctp
deriving DecidableEq, Repr

/-- A Scezer Link transaction: the 32-byte header of R353 and the body. `plane` is the port it arrived on. -/
structure Txn where
  ttype : Byte
  vc    : BitVec 2
  tlen  : BitVec 16
  src   : NodeId
  dst   : NodeId
  eseq  : BitVec 32
  inc   : BitVec 32
  a     : W64
  b     : W64
  body  : List Byte
  plane : Fin 8
deriving DecidableEq, Repr

/-- A flit as it reaches a port (R343, R344): its 640 bytes as they were sent, and the symbols of its codeword that arrive in error. -/
structure RxFlit where
  bytes : List Byte
  errs  : List (Fin 544)
deriving DecidableEq, Repr

/-- A tile fault that a check of a drain meets (R413, points 0x01 to 0x06): the detection point, and the error
pattern of each accumulator word in error, as (word index, XOR pattern of its 256 bits: val, anchor, flags and terms, R101). -/
structure TileFault where
  det : BitVec 8
  dev : List (Nat × BitVec 256)
deriving DecidableEq, Repr

/-- One path-delay reading: tile, the monitor that gave the least sample, and that sample in steps (R440). -/
structure Sample where
  tile : TileNo
  mon  : BitVec 5
  val  : BitVec 8
deriving DecidableEq, Repr

/-- The commands. Docstrings name the rule that governs each; `sec` says whether a host access arrives inside a
secure IDE stream (R562). -/
inductive Instr where
  /-- R202 -/ | copy (st : StreamId) (ph : Phase)
  /-- R203 -/ | gather (st : StreamId) (ph : Phase)
  /-- R203 -/ | scatter (st : StreamId) (ph : Phase)
  /-- R196 -/ | matmul (st : StreamId) (ph : Phase)
  /-- R201 -/ | gmatmul (st : StreamId) (ph : Phase)
  /-- R198 -/ | ewise (st : StreamId) (ph : Phase)
  /-- R127 -/ | reduce (st : StreamId) (ph : Phase)
  /-- R198 -/ | topk (st : StreamId) (ph : Phase)
  /-- R167 -/ | runProgram (st : StreamId) (ph : Phase)
  /-- R367 -/ | allreduce (st : StreamId) (ph : Phase)
  /-- R369 -/ | reduceScatter (st : StreamId) (ph : Phase)
  /-- R369 -/ | allgather (st : StreamId) (ph : Phase)
  /-- R378 -/ | dispatch (st : StreamId) (ph : Phase)
  /-- R380 -/ | combine (st : StreamId) (ph : Phase)
  /-- R317, R427 -/ | optUpdate (st : StreamId) (ph : OptPhase)
  /-- R334 -/ | initStep (st : StreamId) (ph : Phase)
  /-- R335 -/ | scan (st : StreamId) (ph : Phase)
  /-- R336 -/ | agree (st : StreamId) (ph : Phase)
  /-- R327 -/ | commit (st : StreamId) (ph : Phase)
  /-- R334 -/ | initTscale (st : StreamId) (ph : Phase)
  /-- R337 -/ | quant (st : StreamId) (ph : Phase)
  /-- R226 -/ | signal (st : StreamId) (ph : Phase)
  /-- R227 -/ | wait (st : StreamId) (ph : Phase)
  /-- R229 -/ | fence (st : StreamId) (ph : Phase)
  /-- R468 -/ | snapBegin (st : StreamId) (ph : Phase)
  /-- R471 -/ | snapEnd (st : StreamId) (ph : Phase)
  /-- R436 -/ | digestCompute (st : StreamId) (ph : Phase)
  /-- R438 -/ | digestCompare (st : StreamId) (ph : Phase)
  /-- R438 -/ | digestGroup (st : StreamId) (ph : Phase)
  /-- R390 -/ | trace (st : StreamId) (ph : Phase)
  /-- R403 -/ | seal (st : StreamId) (ph : Phase)
  /-- R204 -/ | loadProgram (st : StreamId) (ph : Phase)
  /-- R170 -/ | loadProgramDirect (st : StreamId) (ph : Phase)
  /-- R210: a write of `pi` to the DB_PI register of a stream -/
  | dbPiWrite (sec : Bool) (st : StreamId) (pi : BitVec 32)
  /-- R212 -/ | push (t : Txn)
  /-- R212 -/ | pushResp (t : Txn)
  /-- R223 -/ | commandStart (st : StreamId)
  /-- R251 -/ | workspaceWaitPlan (st : StreamId)
  /-- R245 -/ | phasePublish (st : StreamId)
  /-- R261 -/ | tileTake (c : Fin 16)
  /-- R237 -/ | commandComplete (st : StreamId)
  /-- R238 -/ | completionEntryWrite (st : StreamId)
  /-- R186 -/ | streamCloseEffect (st : StreamId)
  /-- R217 -/ | escortTimeout (st : StreamId)
  /-- R151 -/ | nop (t : TileNo) (sl : TileSlot)
  /-- R165 -/ | endProg (t : TileNo)
  /-- R151 -/ | idle (t : TileNo)
  /-- R157 -/ | waitx (t : TileNo)
  /-- R151 -/ | loop (t : TileNo)
  /-- R152 -/ | lds (t : TileNo)
  /-- R152 -/ | sts (t : TileNo)
  /-- R159 -/ | mma (t : TileNo)
  /-- R160 -/ | zat (t : TileNo)
  /-- R156 -/ | vadd (t : TileNo)
  /-- R156 -/ | vsub (t : TileNo)
  /-- R156 -/ | vmul (t : TileNo)
  /-- R156 -/ | vfma (t : TileNo)
  /-- R156 -/ | vdiv (t : TileNo)
  /-- R156 -/ | vsqrt (t : TileNo)
  /-- R156 -/ | vmin (t : TileNo)
  /-- R156 -/ | vmax (t : TileNo)
  /-- R156 -/ | vcvt (t : TileNo)
  /-- R154 -/ | vld (t : TileNo) (sl : TileSlot)
  /-- R154 -/ | vst (t : TileNo) (sl : TileSlot)
  /-- R156 -/ | vmov (t : TileNo) (sl : TileSlot)
  /-- R171: `fault` is what the drain's checks meet, `full` whether the outbound queue is full (R142) -/
  | drain (t : TileNo) (fault : Option TileFault) (full : Bool)
  /-- R181 -/ | tmrg (t : TileNo)
  /-- R157 -/ | transferComplete (t : TileNo) (tok : Fin 16)
  /-- R142 -/ | outboundQueueFree (t : TileNo)
  /-- R166: `bankB` names IM-B -/ | imLoadDone (t : TileNo) (bankB : Bool)
  /-- R168 -/ | imBankSwitch (t : TileNo)
  /-- R129 -/ | trapScan (st : StreamId)
  /-- R162 -/ | scheduleFaultResolve (st : StreamId)
  /-- R296 -/ | uncorrectableCommandFail (st : StreamId)
  /-- R418: `nb` is the tile that first ends a job, used where the cluster's spare is not free -/
  | heldJobService (t : TileNo) (nb : TileNo)
  /-- R419: the error patterns of the whole words of the replays S and N, whether each passes its check, and whether the recomputed
  residues match the data -/
  | replayDecision (t : TileNo) (devS devN : List (Nat × BitVec 256)) (chkS chkN recomp : Bool)
  /-- R420, R421: the third replay on tile `t3`; no error pattern where that tile faults during it -/
  | thirdReplayDecision (t t3 : TileNo) (dev : Option (List (Nat × BitVec 256)))
  /-- R424 -/ | tileSelftestDone (t : TileNo) (pass : Bool) (level : Fin 8)
  /-- R428 -/ | spareFillDone (c : Fin 16) (pass : Bool)
  /-- R434: in which bytes, in drain order, those that the primary, the shadow, the third copy and the suspected tile's rerun deliver differ from the
  job's right ones, and by which XOR pattern -/
  | shadowCompare (st : StreamId) (job : Nat) (prim shad third again : List (Nat × Byte))
  /-- R431 -/ | clusterRegulatorFault (c : Fin 16)
  /-- R431 -/ | regulatorSelftestDone (c : Fin 16) (pass : Bool)
  /-- R47 -/ | activeLockstepMismatch
  /-- R48 -/ | standbyLockstepMismatch
  /-- R425 -/ | planeSelftestDone (pass : Bool)
  /-- R44: dies 0 to 3 are the die pairs, 4 and 5 IO0 and IO1 -/
  | fabricLinkFail (d1 d2 : Fin 6)
  /-- R413 -/ | rootPllUnlock
  /-- R50 -/ | dieLoss (p : Part)
  /-- R278 -/ | retentionRebuildDone
  /-- R440 -/ | monitorSample (samples : List Sample)
  /-- R441 -/ | marginReplan (c : Fin 16)
  /-- R299: `err` is the error pattern that the read of the next word meets, against its valid codewords -/
  | scrubRead (hbm : Bool) (err : BitVec 288)
  /-- R302: block `blk` of 1 KiB of pseudo-channel `pc` of stack `k` -/
  | hbmRowRetire (k : Fin 8) (pc : BitVec 5) (blk : Nat)
  /-- R302 -/ | hbmPprDone (at_ : Channel) (ok : Bool)
  /-- R284: HBM block `blk` of 256 KiB -/ | stageBlockDone (st : StreamId) (blk : Nat)
  /-- R346 -/ | dataFlit (p : Fin 8) (f : RxFlit)
  /-- R346 -/ | ackFlit (p : Fin 8) (f : RxFlit)
  /-- R346 -/ | nakFlit (p : Fin 8) (f : RxFlit)
  /-- R345 -/ | idleFlit (p : Fin 8) (f : RxFlit)
  /-- R341: the map in the payload: the physical lane of each logical lane, then generation and effective count -/
  | laneMapFlit (p : Fin 8) (f : RxFlit) (map : List (Fin 9)) (gen : BitVec 4) (eff : BitVec 12)
  /-- R350: the switch's link-up flit: plane id, switch port, domain, credits per channel -/
  | linkUpFlit (p : Fin 8) (f : RxFlit) (plane : BitVec 4) (swPort : Nat) (domain : BitVec 16) (cv : List Nat)
  /-- R341 -/ | laneFail (p : Fin 8) (lane : Fin 9)
  /-- R341 -/ | laneMapSwitch (p : Fin 8)
  /-- R347 -/ | codewordLockLoss (p : Fin 8)
  /-- R347 -/ | portRetrainDone (p : Fin 8) (ok : Bool)
  /-- R346 -/ | ackInterval (p : Fin 8)
  /-- R350 -/ | linkUpRetry (p : Fin 8)
  /-- R357 -/ | write (t : Txn)
  /-- R357 -/ | read (t : Txn)
  /-- R354 -/ | readData (t : Txn)
  /-- R355 -/ | ack (t : Txn)
  /-- R226 -/ | remoteSignal (t : Txn)
  /-- R355 -/ | unreach (t : Txn)
  /-- R356 -/ | hello (t : Txn)
  /-- R369 -/ | seg (t : Txn)
  /-- R371 -/ | abort (t : Txn)
  /-- R378 -/ | count (t : Txn)
  /-- R378 -/ | accept (t : Txn)
  /-- R379 -/ | caravan (t : Txn)
  /-- R380 -/ | returnRows (t : Txn)
  /-- R452 -/ | mirror (t : Txn)
  /-- R454 -/ | withdraw (t : Txn)
  /-- R453 -/ | done (t : Txn)
  /-- R455 -/ | beat (t : Txn)
  /-- R456 -/ | lost (t : Txn)
  /-- R470 -/ | page (t : Txn)
  /-- R471 -/ | snapsync (t : Txn)
  /-- R460 -/ | adopt (t : Txn)
  /-- R460 -/ | journal (t : Txn)
  /-- R476 -/ | rebuild (t : Txn)
  /-- R477 -/ | restore (t : Txn)
  /-- R454 -/ | release (t : Txn)
  /-- R354 -/ | transactionDiscard (t : Txn)
  /-- R355 -/ | e2eTimeout (dst : NodeId) (eseq : BitVec 32)
  /-- R355 -/ | e2eGiveUp (dst : NodeId) (eseq : BitVec 32)
  /-- R455 -/ | beatTimer
  /-- R455 -/ | lossTimeout (n : NodeId)
  /-- R458 -/ | portsDownTimeout
  /-- R402 -/ | sealInterval
  /-- R399 -/ | evidenceLogWrite
  /-- R491: the ungranted draw in mW, the bus energy above 12.0 V in µJ, and the measured input power in mW -/
  | governorTick (u : Nat) (e : Int) (pin : Nat)
  /-- R498: the hottest die junction and HBM stack in degrees C -/ | thermalTick (tj thbm : Nat)
  /-- R489: the input voltage in 10 mV -/ | softStart (vin : Nat)
  /-- R487 -/ | inputCollapse (vin : Nat)
  /-- R488 -/ | inputOvervoltage (vin : Nat)
  /-- R488 -/ | inputRestart (vin : Nat)
  /-- R500 -/ | junctionShutdown (tj : Nat)
  /-- R501 -/ | opticalOverpower (p : Fin 8)
  /-- R503 -/ | referenceLost
  /-- R503 -/ | referenceReturn
  /-- R504 -/ | hostReferenceLost
  /-- R588 -/ | seatDeassert
  /-- R589 -/ | coldRst
  /-- R589 -/ | coldRstRelease
  /-- R590: `asserted` is the level that PERST# goes to -/ | perst (asserted : Bool)
  /-- R567 -/ | functionLevelReset
  /-- R513 -/ | warmReset
  /-- R548 -/ | bootRomStart
  /-- R516 -/ | configure
  /-- R511: tiles that fail their self-test, clusters whose regulator fails, calibrated k_v and k_f per cluster, samples -/
  | selftest (failTiles : List TileNo) (failRegs : List (Fin 16)) (kv kf : List (BitVec 4)) (samples : List Sample)
  /-- R510 -/ | serviceEntry
  /-- R187 -/ | streamOpen (sec : Bool)
  /-- R186 -/ | streamClose (sec : Bool)
  /-- R188 -/ | streamPause (sec : Bool)
  /-- R188 -/ | streamResume (sec : Bool)
  /-- R228 -/ | cmdSyncAdd (sec : Bool) (v : W64)
  /-- R228 -/ | cmdSyncMax (sec : Bool) (v : W64)
  /-- R231 -/ | breakpointResume (sec : Bool)
  /-- R233 -/ | cmdFnDis (sec : Bool) (v : W64)
  /-- R240: a write to CMD_CRING_CFG -/ | cmdCringCfg (sec : Bool) (v : W64)
  /-- R240 -/ | cmdCringHt (sec : Bool) (ring : BitVec 11) (head : BitVec 32)
  /-- R259 -/ | tilVoEnt (sec : Bool) (v : W64)
  /-- R384 -/ | portDisable (sec : Bool) (dis : Bool)
  /-- R384 -/ | portRetrain (sec : Bool)
  /-- R342 -/ | laneReset (sec : Bool)
  /-- R360 -/ | groupCommit (sec : Bool)
  /-- R363 -/ | groupInvalidate (sec : Bool)
  /-- R445 -/ | tileSelftestRun (sec : Bool)
  /-- R424 -/ | returnAsSpare (sec : Bool)
  /-- R447 -/ | marginReplanNow (sec : Bool)
  /-- R477 -/ | jobResume (sec : Bool)
  /-- R479 -/ | jobRelease (sec : Bool)
  /-- R481 -/ | jobReplay (sec : Bool)
  /-- R495 -/ | pwrCapUser (sec : Bool) (v : W64)
  /-- R519 -/ | cfgApply (sec : Bool)
  /-- R531 -/ | ownershipTransfer (sec : Bool)
  /-- R508 -/ | enterMaintenance (sec : Bool)
  /-- R508 -/ | leaveMaintenance (sec : Bool)
  /-- R513 -/ | cfgWarmReset (sec : Bool)
  /-- R542 -/ | fwuBegin (sec : Bool)
  /-- R543 -/ | fwuWrite (sec : Bool)
  /-- R547 -/ | fwuInstall (sec : Bool)
  /-- R547 -/ | flashOperationDone (ok : Bool)
  /-- R550 -/ | handover (sec : Bool) (fwSel cfgSel : Bool) (win : BitVec 16)
  /-- R551 -/ | standbyRebuildDone
  /-- R556 -/ | fwuConfirm (sec : Bool)
  /-- R554 -/ | fwuFallback (sec : Bool)
  /-- R556 -/ | healthWindowExpiry
  /-- R554 -/ | healthSignalTimeout
  /-- R556 -/ | formerPlaneRestartDone
  /-- R562 -/ | ideLock (sec : Bool)
  /-- R561: stream 0 is the link stream, 1 to 4 the selective streams -/ | ideCheckFail (strm : Fin 5)
  /-- R21, R569: the BAR as HIF_ERR_ADDR codes it (0 BAR0, 1 BAR2), offset, size in bytes, value -/
  | registerWrite (sec : Bool) (bar : Fin 3) (off size : Nat) (v : W64) (poisoned : Bool)
  /-- R276 -/ | bar4Write (sec : Bool) (off : Nat) (data : List Byte) (poisoned : Bool)
  /-- R276 -/ | bar4Read (sec : Bool) (off len : Nat)
  /-- R573: the BAR as HIF_ERR_ADDR codes it -/ | atomicopRequest (bar : Fin 3) (off : Nat)
  /-- R584: the request body -/ | mctpRegisterRead (body : List Byte)
  /-- R584 -/ | mctpRegisterWrite (body : List Byte)
  /-- R557 -/ | getVersion (tr : Transport)
  /-- R557 -/ | getCapabilities (tr : Transport)
  /-- R557 -/ | negotiateAlgorithms (tr : Transport)
  /-- R539 -/ | getDigests (tr : Transport)
  /-- R539 -/ | getCertificate (tr : Transport) (slot : Nat) (off len : Nat)
  /-- R557 -/ | challenge (tr : Transport) (slot : Nat) (nonce : List Byte)
  /-- R558: index 0 asks for the count, 0xFF for every block -/ | getMeasurements (tr : Transport) (idx : Byte) (nonce : List Byte)
  /-- R557 -/ | keyExchange (tr : Transport)
  /-- R557 -/ | finish (tr : Transport) (ses : Nat) (ok : Bool)
  /-- R557 -/ | heartbeat (tr : Transport) (ses : Nat)
  /-- R557 -/ | keyUpdate (tr : Transport) (ses : Nat)
  /-- R557 -/ | endSession (tr : Transport) (ses : Nat)
  /-- R430: true names LM1 -/ | laserModuleFail (lm1 : Bool)
  /-- R600 -/ | laserLatchOpen (lm1 : Bool)
  /-- R602: whether a module is seated and whether its identity memory names an ERX-LM9 -/
  | laserLatchClose (lm1 seated known : Bool)
  /-- R602 -/ | laserSelftestDone (lm1 pass : Bool)
  /-- R602 -/ | laserRampDone (lm1 : Bool)
  /-- R504 -/ | hostReferenceReturn
  /-- R560 -/ | ideKm (ses : Nat) (strm : Fin 5)
  /-- R575: a vector, or none for the Function Mask -/ | msixUnmask (vec : Option (BitVec 11))
  /-- R574 -/ | busMasterEnable
  /-- R552 -/ | handoverAborted
  /-- R554 -/ | declaredUnhealthy
  /-- R193 -/ | opcodeRefused (st : StreamId)
  /-- R607 -/ | recordUnreadable (st : StreamId)
deriving DecidableEq, Repr

end Sys2Proof
end

