-- ==== Sys2Proof/Decode.lean ====
section
/-! DEFINITION. The command that a word spells by the opcode table's bits. The table gives no row any bits (the
commands are events of the block, not words), so no word spells a command (log entry 8). -/

namespace Sys2Proof

/-- The command that a word of `nbits` bits spells: none, since spec/opcode_table.json gives no row bits. -/
def decodeTableWord (_nbits _w : Nat) : Option Instr := none

end Sys2Proof
end

