-- ==== Sys2Proof/Machine/State.lean ====
section
/-! DEFINITION. The state of the Zilweiq as plain data: every register, queue, buffer, memory and mode the spec
names, the queue of waiting commands, and the state after reset. -/

namespace Sys2Proof.Machine

/-- Why a run stops with a fault. No rule of this spec gives a command no effect at all, so no meaning raises one. -/
inductive Fault where
  /-- Reserved: raised by no meaning. Safe. -/
  | unreachable
deriving DecidableEq, Repr

/-- Why a command has no meaning here. -/
inductive Refusal where
  /-- The dispatcher rejects a command whose meaning is not written. Safe. -/
  | notModelled (mnemonic : String)
deriving DecidableEq, Repr

/-! ### Memory -/

/-- The bytes of the Serai and HBM, and per 256-bit word the error pattern against its valid codewords (R290 to
R293; a poisoned word is the pattern of R293). The bytes are those that a read of the word gives after its correction. `slots` are the redirected HBM rows with their remap slots (R302): such a row's bytes
and patterns stand under its own addresses, the patterns as the Serai lays them out. -/
structure Mem where
  cells : Tbl Byte
  err   : Tbl (BitVec 288)
  slots : Tbl Nat := []
deriving DecidableEq, Repr

/-- A ledger word beside its flags (R101). -/
structure LWord where
  val : BitVec 192
  anchor : BitVec 12
  nan : Bool
  pinf : Bool
  ninf : Bool
  sat : Bool
  rnd : Bool
  hx : Bool
  terms : Nat
deriving DecidableEq, Repr

/-! ### Records in force (R522 to R526) -/

/-- An expert map (R376, R526): home rank and local slot of each expert. -/
structure ExpMap where
  id : Nat
  gen : Nat
  group : Nat
  homes : List (Nat × Nat)
deriving DecidableEq, Repr

/-- The JOB record (R526). -/
structure JobRec where
  jobGroup : Nat
  parityGroup : Nat
  mb : Nat
  p0 : Nat
  sync0 : Nat
  nsync : Nat
  stepAddr : Nat
  streams : List Nat
  ranges : List (Nat × Nat)
deriving DecidableEq, Repr

/-- A GROUP record (R524). -/
structure GroupRec where
  id : Nat
  dropOk : Bool
  epoch : Nat
  members : List Nat
deriving DecidableEq, Repr

/-- The configuration records in force, defaults as R522 gives them. -/
structure Conf where
  node : NodeId := 0
  domain : BitVec 16 := 0
  feed : BitVec 16 := 0
  incBase : BitVec 32 := 0
  escort : NodeId := 0
  escEn : Bool := false
  escTo : Nat := 500
  lossTo : Nat := 1000
  stg : Nat := 256
  wsp : Nat := 128
  ret : Nat := 32
  wsCeil : Nat := 64
  sMin : Nat := 60
  hHr : Nat := 12
  e2eUs : Nat := 100
  giveMs : Nat := 1000
  snapPct : Nat := 25
  cap : Nat := 2400
  slope : Nat := 200
  floorQ : Nat := 0
  floorEn : Bool := false
  win : Nat := 10
  sealMs : Nat := 10
  sReq : Nat := 16
  dTrig : Nat := 4
  maintOk : Bool := false
  rsv : Nat := 2
  maps : List ExpMap := []
  groups : List GroupRec := []
  job : Option JobRec := none
deriving DecidableEq, Repr

/-! ### Command streams -/

/-- Why a command stops issuing jobs (R129, R162, R296, R297, R420). -/
inductive Stop where
  | trap (cause : Nat)
  | sched (job : Nat) (rec0 rec1 rec2 rec3 : W64)
  | uncorr (addr : Nat)
  | lost (addr : Nat)
  | unresolved (tile : TileNo)
deriving DecidableEq, Repr

/-- The states of a journal entry (R220). -/
inductive EState where
  | pending | accepted | running | done | completed
deriving DecidableEq, Repr

/-- One phase of a plan (R244): 0 product, 1 merge, 2 scale pass, 3 top-k round. -/
structure PPhase where
  kind : Nat
  first : Nat
  jobs : Nat
deriving DecidableEq, Repr

/-- A plan (R241 to R252). `blocks` are the block rows: origin and extent (R243). -/
structure Plan where
  s : Nat
  kp : Nat
  lc : Nat
  nb : Nat
  blocks : List (Nat × Nat)
  phases : List PPhase
  cur : Nat
  wsBytes : Nat
  anchor : Int
  pid : BitVec 16
  gen : BitVec 32
deriving DecidableEq, Repr

/-- What a job leaves in the workspace (R247 to R249): ledger words; FP32 values with their partial amax, by row, and their lists; or lists of
(key, index). `record` is the evidence record of a TRACE's job, without its serial, and the job's report (R394); empty for an entry out of range. -/
inductive Work where
  | words (w : List LWord)
  | vals (v amax : List (BitVec 32)) (l : List (List (BitVec 32 × BitVec 32)))
  | lists (l : List (List (BitVec 32 × BitVec 32)))
  | record (r : List Byte) (rep : W64)
deriving DecidableEq, Repr

/-- A staged chunk of an OPT_UPDATE (R322): its unit and number, the writes in its staging slot, each element's new working value and what a second
pass reads back, and its report. -/
structure Chunk where
  unit : Nat
  num : Nat
  wr : List (Nat × Nat × Nat)
  vals : List (Nat × BitVec 32 × BitVec 32)
  rep : W64
deriving DecidableEq, Repr

/-- A journal entry, or a refusal entry waiting in completion order (R215, R220, R236). `slot` is the ring index of its
completion entry once that is written. `blocks` are the HBM blocks its operands reach (R284), with whether each stays
staged for the whole command (R258), `copies` the outputs of drained jobs that wait for
their copy to HBM or, in place, to their destination (R222, R286). `recs` are the step record and the tensor-scale entry as they stood at its start
(R309), `chunk` and `chunks` the staged and the done chunks of an OPT_UPDATE, `opt` the values that its Q copy scales (R322, R332), `late` its writes to 64-byte lines
that a chunk still to be done shares (R323). `redo` are the jobs that run
again after a warm reset and whose report counts already (R264, R280). `push` is the PUSH whose response waits for the escort (R212). -/
structure Entry where
  seq : W64
  st : EState
  refused : Bool := false
  bytes : List Byte
  ext : List Byte := []
  status : Status := 0
  nrep : W64 := 0
  foff : Nat := 0
  aux : BitVec 32 := 0
  vo : W64 := 0
  shd : Nat := 0
  emap : Option ExpMap := none
  plan : Option Plan := none
  work : Tbl Work := []
  drained : List Nat := []
  staged : List Nat := []
  blocks : List (Nat × Bool) := []
  copies : List (Nat × List (Nat × Nat × Nat)) := []
  recs : List (Nat × List Byte) := []
  chunk : Option Chunk := none
  chunks : List (Nat × Nat) := []
  opt : List (Nat × BitVec 32 × BitVec 32) := []
  late : List (Nat × Nat × Nat) := []
  shadowed : List Nat := []
  redo : List Nat := []
  places : List (Nat × TileNo) := []
  ran : Bool := false
  gen : Option (BitVec 32) := none
  stop : Option Stop := none
  log : List (Nat × List Byte) := []
  waits : List (NodeId × BitVec 32) := []
  snap : Option Nat := none
  wdWait : Bool := false
  wdDone : Bool := false
  push : Option (NodeId × BitVec 32) := none
  slot : BitVec 32 := 0
deriving DecidableEq, Repr

/-- A command stream (R185 to R189, R209). -/
structure Stream where
  cfg : W64 := 0x4400
  opened : Bool := false
  paused : Bool := false
  closing : Bool := false
  escOk : Bool := false
  ovr : Bool := false
  openErr : Bool := false
  qbase : Nat := 0
  pi : BitVec 32 := 0
  ci : BitVec 32 := 0
  awb : W64 := 0
  nseq : W64 := 0
  cseq : W64 := 0
  journal : List Entry := []
  lastDigest : Status := 0
deriving DecidableEq, Repr

/-- A completion ring (R235, R240). `busy`: an entry written to a ring on another node is unanswered. -/
structure Ring where
  base : W64 := 0
  cfg : W64 := 6
  head : BitVec 32 := 0
  tail : BitVec 32 := 0
  busy : Bool := false
deriving DecidableEq, Repr

/-- The breakpoint registers (R231, R232) and the commands that resume without a match. -/
structure Brk where
  ctl : W64 := 0
  cnt : W64 := 0
  tag : W64 := 0
  hit : W64 := 0
  seq : W64 := 0
  pass : List (Nat × W64) := []
deriving DecidableEq, Repr

/-- The command block (R185 to R240). -/
structure Cmd where
  streams : Tbl Stream := []
  rings : Tbl Ring := []
  sync : Tbl W64 := []
  brk : Brk := {}
  fnDis : BitVec 8 := 0
  wsWait : List (Nat × W64) := []
  awbWait : List Nat := []
deriving DecidableEq, Repr

/-! ### Tiles -/

/-- A published phase in a queue of the shared tile counter (R260): untaken and returned indices. -/
structure Batch where
  st : Nat
  seq : W64
  next : Nat
  stop : Nat
  back : List Nat
deriving DecidableEq, Repr

/-- A staged block (R284, R285): an HBM block of 256 KiB that a command reads, in a slot of the staging region. `pan` is the panel that it is staged
for, or none where it stays for the whole command (R258). -/
structure SBlock where
  st : Nat
  seq : W64
  blk : Nat
  slot : Nat
  pan : Option Nat := none
deriving DecidableEq, Repr

/-- A taken job. -/
structure TJob where
  st : Nat
  seq : W64
  idx : Nat
  ballast : Bool := false
deriving DecidableEq, Repr

/-- The audit state of a store (R145): its ready stamp, and the owners that claim or hold it, each an owner tag (0x30 + at for a
chain, 0x40 + token for a transfer, else 0) with its release cycle. -/
structure Stamp where
  ready : Nat
  own : List (Nat × Nat)
deriving DecidableEq, Repr

/-- A transfer that a token tracks (R152, R157). `kind` 0 LDS, 1 STS, 2 drain. For an LDS in flight `bits` lists (bit address, width,
operand-buffer bit); for the others (bit address, width, value), written when the token retires. -/
structure Xfer where
  kind : Nat
  seg : Nat
  nseg : Nat
  bits : List (Nat × Nat × Nat)
  done : Bool
deriving DecidableEq, Repr

/-- An instruction-memory bank (R166 to R170, R184). -/
structure Bank where
  pid : BitVec 16 := 0
  gen : BitVec 32 := 0
  valid : Bool := false
  loading : Bool := false
  img : List Byte := []
deriving DecidableEq, Repr

/-- The open chain of the matrix array (R159, R160). -/
structure Chain where
  at_ : Nat
  kc : Nat
deriving DecidableEq, Repr

/-- A product that trapped: its coordinates, the cause (1 overflow, 2 NaN), and the encodings and scale bytes of its factors (R128, R130). -/
structure TrapHit where
  b : Nat
  m : Nat
  n : Nat
  k : Nat
  cause : Nat
  ea : Nat
  sa : Nat
  eb : Nat
  sb : Nat
deriving DecidableEq, Repr

/-- One tile (R140 to R184). `res` holds the carried residues beside the words of `acc` (R138). `met` lists the words in error that its loads have read. `rep`, `hits`, `bad` and `vals` are what the job in the tile leaves at its end: its numeric report,
the products that trapped and the uncorrectable address it met, and the epilogue's FP32 value at each position drained; `frozen` is 1 while the outbound queue is full and 2 while the job is held. -/
structure Tile where
  job : Option TJob := none
  reserve : Option TJob := none
  granted : Bool := false
  ended : Bool := false
  tcy : Nat := 0
  bundle : Nat := 0
  loops : List (Nat × Nat × Nat × Nat × Nat) := []
  audited : Bool := false
  issued : List TileSlot := []
  waitMask : Option (BitVec 16) := none
  frozen : Nat := 0
  ob : Tbl Byte := []
  vreg : Tbl (BitVec 2048) := []
  acc : Tbl (List LWord) := []
  res : Tbl (List Nat) := []
  rep : Nat × Nat × Nat × Nat := (0, 0, 0, 0)
  hits : List TrapHit := []
  bad : Option Nat := none
  met : List Nat := []
  stamps : Tbl Stamp := []
  toks : Tbl Xfer := []
  chain : Option Chain := none
  vals : List (Nat × Nat × Nat) := []
  imA : Bank := {}
  imB : Bank := {}
  actB : Bool := false
  pendSw : Bool := false
  jobs : Nat := 0
  busy : Nat := 0
deriving DecidableEq, Repr

/-- A loaded program generation (R167 to R170, R204). -/
structure Prog where
  pid : Nat
  gen : BitVec 32
  img : List Byte
  done : Bool
deriving DecidableEq, Repr

/-- The TIL block (R182 to R184, R255 to R271). -/
structure Til where
  vo : Tbl W64 := []
  voErr : Bool := false
  bind : Tbl (BitVec 6) := []
  srv : List Batch := []
  trn : List Batch := []
  stage : List SBlock := []
  lastClu : Nat := 15
  plans : Tbl (W64 × W64 × W64) := []
  progs : List Prog := []
  gens : Tbl (BitVec 32) := []
  tiles : Tbl Tile := []
  sflt : W64 × W64 × W64 × W64 := (0, 0, 0, 0)
deriving DecidableEq, Repr

/-! ### Serai, HBM and update units -/

/-- The Serai's registers and repair state (R274 to R305, R426). -/
structure Ser where
  up : BitVec 4 := 0xF
  rebuild : Bool := false
  ce : Nat := 0
  ue : Nat := 0
  paViol : Bool := false
  ueNew : Bool := false
  errAddr : Nat := 0
  scrubPos : Nat := 0
  passes : Nat := 0
  bw : Tbl Nat := []
  stall : Tbl Nat := []
  lineErr : List (Nat × Nat × Nat) := []
  remapped : List Nat := []
  spares : Tbl Nat := []
deriving DecidableEq, Repr

/-- One entry of a stack's retirement log (R306): kind 1 repaired, 2 redirected, 3 in progress. -/
structure Retire where
  pc : Nat
  blk : Nat
  bank : Nat
  row : Nat
  kind : Nat
  cause : Bool
deriving DecidableEq, Repr

/-- One HBM stack (R301 to R306). -/
structure Stack where
  lost : Bool := false
  degraded : Bool := false
  used : Nat := 0
  log : List Retire := []
  ce : Nat := 0
  ue : Nat := 0
  ueNew : Bool := false
  errAddr : Nat := 0
  bwRd : Nat := 0
  bwWr : Nat := 0
  rowErr : List (Nat × Nat × Nat) := []
deriving DecidableEq, Repr

/-- One update unit (R307, R338, R427). -/
structure UUnit where
  up : Bool := true
  staged : Bool := false
  elems : Nat := 0
  fclk : Nat := 0
  lanes : Nat := 68
deriving DecidableEq, Repr

/-- The HBM and TRN blocks. -/
structure Hbm where
  stackTbl : Tbl Stack := []
  scrubPos : Nat := 0
  passes : Nat := 0
  units : Tbl UUnit := []
  optSkip : Nat := 0
  corr : Nat := 0
deriving DecidableEq, Repr

/-! ### Scezer Link -/

/-- One fibre port (R339 to R350, R384). State 0 down, 1 training, 2 up, 3 refused, 4 disabled. An entry of `replay` is a flit's number,
its channel plus 4 where sot and 8 where eot is set, and its payload. -/
structure Port where
  st : Nat := 0
  cause : Nat := 0
  map : List Nat := [0, 1, 2, 3, 4, 5, 6, 7]
  laneOk : BitVec 9 := 0x1FF
  bad : BitVec 9 := 0
  gen : BitVec 4 := 0
  pmap : Option (List Nat × Nat × Nat) := none
  plane : BitVec 4 := 0
  swPort : Nat := 0
  dis : Bool := false
  txSeq : Nat := 0
  rxSeq : Nat := 0
  gap : Bool := false
  replay : List (Nat × Nat × List Byte) := []
  waitq : List (Nat × Bool × Bool × List Byte) := []
  sent : List Nat := [0, 0, 0, 0]
  ack : List Nat := [0, 0, 0, 0]
  cv : List Nat := [0, 0, 0, 0]
  freed : List Nat := [0, 0, 0, 0]
  cwCnt : Nat := 0
  naks : Nat := 0
  nakSeq : Nat := 0
  nakTx : Nat := 0
  fails : Nat := 0
  fec : Nat := 0
  ucw : Nat := 0
  crc : Nat := 0
  replays : Nat := 0
  retrains : Nat := 0
  spares : Nat := 0
  tx : Nat := 0
  rx : Nat := 0
  asm : Tbl (List Byte) := []
deriving DecidableEq, Repr

/-- What an unanswered transaction is sent for: `keep` is one that no command sent and that is resent until it is answered (log entry 82). -/
inductive Purpose where
  | none
  | cmd (st : Nat) (seq : W64)
  | mirror (st : Nat) (seq : W64)
  | withdraw (st : Nat) (seq : W64)
  | ring (ring : Nat) (st : Nat)
  | release
  | page
  | adopt
  | keep
deriving DecidableEq, Repr

/-- An unanswered transaction (R355). -/
structure Sent where
  txn : Txn
  why : Purpose
  at_ : Nat
deriving DecidableEq, Repr

/-- End-to-end state with one node (R355, R356). -/
structure Peer where
  next : BitVec 32 := 0
  hello : Bool := false
  known : Bool := false
  inc : BitVec 32 := 0
  feed : BitVec 16 := 0
  domain : BitVec 16 := 0
  ports : BitVec 8 := 0
  answers : List (BitVec 32 × Txn) := []
  heard : Nat := 0
  lost : Bool := false
deriving DecidableEq, Repr

/-- A communication group entry (R360, R385, R386). -/
structure Group where
  valid : Bool := false
  dropOk : Bool := false
  rank : Nat := 0
  epoch : W64 := 0
  members : List Nat := []
  list : Nat := 0
  cseq : W64 := 0
  sEnt : W64 := 0
  sEpoch : W64 := 0
  sList : W64 := 0
  wrErr : Bool := false
  slowRank : Nat := 0
  slowGap : Nat := 0
  ownGap : Nat := 0
  selfSlow : Nat := 0
  waitUs : Nat := 0
  lastEnd : Option Nat := none
deriving DecidableEq, Repr

/-- A collective in flight (R361 to R382). `words` holds this member's partial sums, `outs` the element codes gathered, `got` the
segments used (phase and step, part, first block, blocks); `sentTo` is the last step sent. `counts` and `accepts` hold what
each rank announced (rank, first expert, values), `rows` the rows received (slot, row, source and tag, bytes). `slowRank` and `slowGap` are the
largest gap heard of, `gaps` those that came with each shard: rank and gap (R382). -/
structure Coll where
  st : Nat
  seq : W64
  opc : BitVec 8
  group : Nat
  cseq : W64
  startUs : Nat
  gap : Nat
  words : List LWord := []
  outs : List Nat := []
  got : List (Nat × Nat × Nat × Nat) := []
  sentTo : Nat := 0
  ints : Nat × Nat := (0, 0)
  counts : List (Nat × Nat × List Nat) := []
  accepts : List (Nat × Nat × List Nat) := []
  rows : List (Nat × Nat × Nat × List Byte) := []
  slowRank : Nat := 0
  slowGap : Nat := 0
  gaps : Tbl (Nat × Nat) := []
deriving DecidableEq, Repr

/-- The bookkeeping of a completed DISPATCH (R380): kept pairs (token, j, expert, i), filled rows with their sources
(slot, row, source, tag), gates by entry, and the counts of RA. -/
structure DispBook where
  kept : List (Nat × Nat × Nat × Nat)
  homed : List (Nat × Nat × Nat × Nat)
  map : ExpMap
  gates : List (BitVec 32)
  tokens : Nat
  levels : Nat × Nat
  gapRec : Nat × Nat
deriving DecidableEq, Repr

/-- The LNK block. -/
structure Lnk where
  ports : Tbl Port := []
  peers : Tbl Peer := []
  sent : List Sent := []
  retx : Nat := 0
  giveup : Nat := 0
  discard : Nat := 0
  groups : Tbl Group := []
  colls : List Coll := []
  kept : List Txn := []
  disp : Tbl DispBook := []
  inbox : List (Nat × List Byte) := []
  downAt : Option Nat := none
deriving DecidableEq, Repr

/-! ### Evidence -/

/-- The evidence queue, the seal chain and the log (R398 to R412). -/
structure Evd where
  queue : List (List Byte) := []
  unsealed : Nat := 0
  sealed : List (Nat × List Byte) := []
  oldest : Nat := 0
  serial : Nat := 0
  sserial : Nat := 0
  prev : List Byte := []
  lastSeal : Option Nat := none
  logPos : Nat := 0
  base : W64 := 0
  cfg : W64 := 0x0C
  head : BitVec 32 := 0
  tail : BitVec 32 := 0
deriving DecidableEq, Repr

/-! ### Faults, sparing and ageing -/

/-- A cluster (R428 to R431, R440 to R447). `wd`: withdrawn for the self-tests of R420, `wdReg`: its regulator's is not over;
`plan` is the plan whose offset waits for its grant: the new offset and the new fractions. -/
structure Clu where
  active : BitVec 11 := 0x3FF
  retired : BitVec 11 := 0
  spare : BitVec 4 := 0xA
  filling : Bool := false
  ivrOk : Bool := true
  up : Bool := true
  offset : Int := 0
  kv : Nat := 0
  kf : Nat := 0
  trans : List Nat := []
  predict : Nat := 0xFFFFFFFF
  lastPlan : Nat := 0
  plan : Option (Int × List (Nat × Nat)) := none
  lower : Option Int := none
  wd : Bool := false
  wdReg : Bool := false
deriving DecidableEq, Repr

/-- A tile as the fault service sees it. `st` is coded as RAS_TILE_STAT (R445). -/
structure TileRas where
  st : Nat := 0
  frac : Nat := 16
  next : Option Nat := none
  trans : List Nat := []
  samples : List (Nat × Nat) := []
  worst : Nat := 0
  mon : Nat := 0
  wrErr : Bool := false
deriving DecidableEq, Repr

/-- An event of the event log (R415, R446). -/
structure Event where
  serial : Nat
  det : Nat
  level : Nat
  verdict : Nat
  action : Nat
  loc : Nat
  poh : Nat
  st : Nat
  tag : Nat
  job : Nat
  seq : W64
deriving DecidableEq, Repr

/-- A held job (R418 to R421): its error pattern (the held image against the correct words), those of its replays, whether
the verdict is unresolved, and the tiles whose replay failed its own check. `nb` is the tile of the neighbour replay, `sb` that of the same-tile
replay where the holding tile is out of service (R417); `svc` says that the fault service waits for the first tile that ends a job (R418). -/
structure Held where
  tile : TileNo
  nb : Option TileNo
  job : TJob
  det : Nat
  dev : List (Nat × BitVec 256)
  devS : List (Nat × BitVec 256) := []
  devN : List (Nat × BitVec 256) := []
  open_ : Bool := false
  tried : List TileNo := []
  sb : Option TileNo := none
  svc : Bool := false
deriving DecidableEq, Repr

/-- A control plane (R45 to R49, R425): 0 in service, 1 testing, 2 retired, 3 restarting. -/
structure Plane where
  st : Nat := 0
  stops : List Nat := []
  fw : List Byte := []
  conf : List Byte := []
deriving DecidableEq, Repr

/-- The RAS block. -/
structure Ras where
  clus : Tbl Clu := []
  tiles : Tbl TileRas := []
  events : List Event := []
  next : Nat := 0
  irq : W64 := 0
  shadow : W64 := 0
  shdJobs : Nat := 0
  shdMism : Nat := 0
  sec : Nat := 0
  pairs : BitVec 4 := 0xF
  engines : BitVec 8 := 0xFF
  io0 : Bool := true
  io1 : Bool := true
  fab : BitVec 6 := 0x3F
  fabIo : List (Nat × Nat) := []
  losses : Nat := 0
  held : List Held := []
  planeA : Plane := {}
  planeB : Plane := {}
  actB : Bool := false
deriving DecidableEq, Repr

/-! ### Escorts and jobs -/

/-- An escorted device's slot (R450 to R460, R482): state 0 empty, 1 live, 2 lost, 3 adopting. `inc` is the last incarnation of a
HELLO, `own` the one whose mirrors are held. Items: stream, seq, whether it is a completion entry, its bytes. -/
structure EscSlot where
  node : NodeId := 0
  st : Nat := 0
  inc : BitVec 32 := 0
  own : BitVec 32 := 0
  items : List (Nat × W64 × Bool × List Byte) := []
deriving DecidableEq, Repr

/-- The device's own escort and the devices it escorts. `early` are the JOURNALs of streams whose first has not come (R358, R460); `denied`: the
escort answered the last ADOPT with 0x0607 (R459). -/
structure Esc where
  st : Nat := 0
  feed : BitVec 16 := 0
  wd : List (Nat × W64) := []
  former : List NodeId := []
  slots : Tbl EscSlot := []
  adopting : Bool := false
  early : List Txn := []
  denied : Bool := false
deriving DecidableEq, Repr

/-- A snapshot's image (R467 to R474): serial, copies of pages with the error patterns of their words, `nil` the pages copied that held nothing, group sequence numbers, sync values, and the commands of bound streams
that had started before it. -/
structure Snap where
  serial : Nat
  copies : Tbl (List (Nat × Byte) × List (Nat × BitVec 288)) := []
  nil : List Nat := []
  cseqs : List (Nat × W64) := []
  syncs : List (Nat × W64) := []
  epoch : W64 := 0
  gen : Bool := false
  started : List (Nat × W64) := []
deriving DecidableEq, Repr

/-- The job's state (R463 to R483). `mans` are the SNAPSYNCs received: serial, node, Manifest (empty for abandon); `sentPages` the chunks
not yet acknowledged (stripe, chunk); the parity tables are keyed by 256 times the stripe plus the chunk: of the held generation, of the one in
progress or to come, and of the one after it (R470); `rblt` counts the chunks rebuilt of each stripe. `lostOld` are the losses whose hold is over
(R456), `ask` the op of RAS_JOB_CTL that waits for the own rebuild (R477), `last` the last snapshot that a SNAP_BEGIN took. -/
structure Job where
  st : Nat := 0
  wrErr : Bool := false
  drop : Bool := false
  lost : NodeId := 0
  lostSet : List (NodeId × BitVec 32) := []
  lostOld : List (NodeId × BitVec 32) := []
  serial : Nat := 0
  held : Option Snap := none
  cur : Option Snap := none
  last : Option Snap := none
  sentPages : List (Nat × Nat) := []
  acked : Nat := 0
  copied : Nat := 0
  done : Bool := false
  parity : Tbl (List Byte) := []
  parNew : Tbl (List Byte) := []
  parNext : Tbl (List Byte) := []
  gen : Bool := false
  mans : List (Nat × NodeId × List Byte) := []
  restores : List (NodeId × Nat) := []
  replay : Bool := false
  rblt : List (Nat × Nat) := []
  total : Nat := 0
  ask : Nat := 0
deriving DecidableEq, Repr

/-! ### Power and clocks -/

/-- Whether the module is powered (R487 to R489): off, in soft start, or on from its end. -/
inductive PPower where
  | off | soft | on
deriving DecidableEq, Repr

/-- Who asks for a grant (R490), in the order of R491. -/
inductive Consumer where
  | serving (t : TileNo) | training (t : TileNo) | staging (d : Nat) | unit (k : Nat) | margin (c : Nat)
deriving DecidableEq, Repr

/-- The PWR and CLK blocks. Powers in mW, energies in units of 10 nJ, which one mW spends in one tick of R491. `pins` is the input power of
the ticks of the last 1 ms; `bins` are the 1 ms means of p_ref that are complete. `easing`: the configured values are being reached at the slope of
the start-up defaults (R486). -/
structure Pwr where
  phase : PPower := .on
  seated : Bool := true
  coldLow : Bool := false
  offCause : Nat := 0
  vin : Nat := 5400
  cap : Nat := 800
  slope : Nat := 20
  floorQ : Nat := 0
  floorEn : Bool := false
  win : Nat := 10
  startup : Bool := true
  easing : Bool := false
  capNext : Option Nat := none
  ucap : BitVec 12 := 0
  thcap : Nat := 800
  pref : Nat := 0
  pins : List Nat := []
  floorMw : Nat := 0
  limMw : Nat := 0
  capBound : Bool := false
  floorBound : Bool := false
  bins : List Nat := []
  binSum : Nat := 0
  binN : Nat := 0
  pend : List (Consumer × Nat) := []
  held : List (Consumer × Nat) := []
  bal : List (TileNo × Nat) := []
  clamp : Nat := 0
  uMw : Nat := 0
  tollFloor : Nat := 0
  tollRamp : Nat := 0
  ein : Nat := 0
  tj : Nat := 0
  thbm : Nat := 0
  blank : BitVec 8 := 0
deriving DecidableEq, Repr

/-- The numeric PLDM sensors' readings (R583): input power in W, input voltage in 10 mV, junction and HBM temperature in °C, input energy in J. -/
structure Pldm where
  pin : Nat := 0
  vin : Nat := 0
  tj : Nat := 0
  thbm : Nat := 0
  ein : Nat := 0
deriving DecidableEq, Repr

/-- CLK_STAT (R506). -/
structure Clk where
  lock : Bool := false
  refOk : Bool := false
  hold : Bool := false
  href : Bool := false
  ppm : BitVec 16 := 0
deriving DecidableEq, Repr

/-! ### Configuration, flash, firmware, security, host -/

/-- The device states (R507). -/
inductive DState where
  | powerup | configure | selftest | service | maintenance | hold
deriving DecidableEq, Repr

/-- The CFG block (R507 to R533). `served`: SERVICE or MAINTENANCE has been entered since the cold start. -/
structure Cfg where
  st : DState := .powerup
  handover : Bool := false
  waiting : Bool := false
  unowned : Bool := false
  pendCold : Bool := false
  cause : Nat := 0
  last : Status := 0
  cver : Nat := 0
  ownDig : List Byte := []
  toMaint : Bool := false
  tested : Bool := false
  entered : Bool := false
  served : Bool := false
  warmWait : Bool := false
  maintReq : Nat := 0
  busy : Nat := 0
  conf : Conf := {}
  confImg : List Byte := []
deriving DecidableEq, Repr

/-- A flash slot: the image and its state (R546): 0 empty, 1 trial, 2 confirmed, 3 failed. -/
structure FSlot where
  img : List Byte := []
  st : Nat := 0
deriving DecidableEq, Repr

/-- The sparing marks that the flash keeps for a cluster (R416, R445). -/
structure CluMark where
  active : BitVec 11 := 0x3FF
  retired : BitVec 11 := 0
  inter : BitVec 11 := 0
  spare : BitVec 4 := 0xA
  up : Bool := true
deriving DecidableEq, Repr

/-- A margin-plan record (R443). -/
structure MarginRec where
  clu : Nat
  poh : Nat
  offset : Int
  fracs : List Nat
  slacks : List Nat
  kv : Nat
  kf : Nat
deriving DecidableEq, Repr

/-- An owner record (R529 to R531): the owner's key, the epoch, the key's digest, zero in a release record, and the signature of the device's identity
key. -/
structure OwnerRec where
  key : List Byte
  epoch : Nat
  dig : List Byte
  sig : List Byte
deriving DecidableEq, Repr

/-- The configuration flash (R534, R535). `rpmc` is the RPMC root key written into it (R536): none the module's own, as at manufacture, or another
module's. The fault history is `hist`, of statuses with value and hours, and `kept`, of the events of R416; HIST holds the two places of owner records too,
CERT the PUF's helper data (R537), EVKEY the certificates of evidence keys by epoch (R538). -/
structure Flash where
  rpmc : Option (List Byte) := none
  fwA : FSlot := {}
  fwB : FSlot := {}
  fwIn : Bool := false
  cfgA : FSlot := {}
  cfgB : FSlot := {}
  cfgIn : Bool := false
  stage : Tbl Byte := []
  units : List Nat := []
  staged : Nat := 0
  margin : List MarginRec := []
  hist : List (Status × Nat × Nat) := []
  kept : List Event := []
  marks : Tbl CluMark := []
  redirects : List (Nat × Retire) := []
  planeRet : BitVec 2 := 0
  pwrLast : Status × Nat × Nat := (0, 0, 0)
  ownA : Option OwnerRec := none
  ownB : Option OwnerRec := none
  helper : List Byte := []
  evkey : List (Nat × List Byte) := []
  ctr0 : Nat := 0
  ctr1 : Nat := 0
  ctr2 : Nat := 0
  ctr3 : Nat := 0
deriving DecidableEq, Repr

/-- The FWU block (R542 to R556, R564). -/
structure Fwu where
  src : W64 := 0
  len : W64 := 0
  op : Nat := 0
  recovery : Bool := false
  last : Status := 0
  window : Bool := false
  remain : Nat := 0
  winReq : Nat := 0
  fwSel : Bool := false
  cfgSel : Bool := false
  oldCfg : List Byte := []
  rsf : BitVec 16 := 0
deriving DecidableEq, Repr

/-- The SEC block (R557 to R565). IDE stream 0 is the link stream. Sessions, and the half-open ones of `half`, are transport (true for DOE) and id. `evkCtx` and `akCtx` are the
contexts of the evidence and attestation keys in force (R538). -/
structure Sec where
  ide : BitVec 5 := 0
  ideFail : Bool := false
  lock : Bool := false
  sess : List (Bool × Nat) := []
  half : List (Bool × Nat) := []
  heldMeas : List (Bool × Nat × List Byte) := []
  evkCtx : List Byte := []
  akCtx : List Byte := []
deriving DecidableEq, Repr

/-- The HIF block and the function's configuration state (R566 to R577). -/
structure Hif where
  gen : BitVec 32 := 0
  rate : Nat := 0
  width : Nat := 0
  flit : Bool := false
  retrains : Nat := 0
  up : Bool := false
  perst : Bool := false
  badAcc : Nat := 0
  poison : Nat := 0
  badNew : Bool := false
  poisonNew : Bool := false
  errAddr : W64 := 0
  evtCfg : W64 := 0
  evt : BitVec 4 := 0
  msix : Tbl W64 := []
  pba : List Nat := []
  fmask : Bool := false
  msixEn : Bool := false
  bme : Bool := false
deriving DecidableEq, Repr

/-- The laser bays (R430, R599 to R602): whether healthy, output in percent, seated, in self-test, failed. -/
structure Bay where
  ok : Bool := true
  pct : Nat := 50
  seated : Bool := true
  testing : Bool := false
  failed : Bool := false
  ramp : Bool := false
deriving DecidableEq, Repr

/-- One copy of the selection registers (R571). -/
structure Sel where
  strm : BitVec 16 := 0
  sync : BitVec 14 := 0
  cring : BitVec 11 := 0
  vo : BitVec 6 := 0
  vob : BitVec 16 := 0
  im : BitVec 8 := 0
  tile : BitVec 8 := 0
  pln : BitVec 16 := 0
  rgn : BitVec 3 := 0
  bw : BitVec 7 := 0
  stk : BitVec 3 := 0
  ret : BitVec 16 := 0
  port : BitVec 3 := 0
  grp : BitVec 12 := 0
  strg : BitVec 12 := 0
  uu : BitVec 3 := 0
  clu : BitVec 4 := 0
  rtile : BitVec 8 := 0
  evt : BitVec 32 := 0
  escd : BitVec 3 := 0
  meas : BitVec 4 := 0
deriving DecidableEq, Repr

/-- A reply to the management controller, an SPDM requester or a host read. -/
inductive Reply where
  | mctp (code : Byte) (vals : List W64)
  | bytes (d : List Byte)
  | poisonedTlp
  | unsupported
deriving DecidableEq, Repr

/-- What has left the device, newest last (R574, R353, R345, R557, R584). An entry of `wire` is a port with the 68 symbols of a codeword that each
physical lane carries (R343). -/
structure Out where
  host : List (Nat × List Byte) := []
  msi : List Nat := []
  link : List Txn := []
  wire : List (Nat × List (Nat × List Nat)) := []
  replies : List Reply := []
  spdm : List (Bool × List Byte) := []
deriving DecidableEq, Repr

/-- The whole machine. -/
structure State where
  pending : List Instr := []
  clock : Nat := 0
  free : Nat := 0
  mem : Mem := { cells := [], err := [] }
  cmd : Cmd := {}
  til : Til := {}
  ser : Ser := {}
  hbm : Hbm := {}
  lnk : Lnk := {}
  evd : Evd := {}
  ras : Ras := {}
  esc : Esc := {}
  job : Job := {}
  pwr : Pwr := {}
  clk : Clk := {}
  pldm : Pldm := {}
  cfg : Cfg := {}
  flash : Flash := {}
  fwu : Fwu := {}
  sec : Sec := {}
  hif : Hif := {}
  lm0 : Bay := {}
  lm1 : Bay := {}
  selH : Sel := {}
  selM : Sel := {}
  out : Out := {}
deriving DecidableEq, Repr

/-- The machine right after reset: the entry of POWERUP at a first start (R489, R510), with power applied, the module
seated, and the flash as the log entries 1 to 3 name it. -/
def State.reset : State := {}

end Sys2Proof.Machine
end

