-- ==== Sys2Proof/Machine/Bits.lean ====
section
/-! DEFINITION. Sparse tables, bit fields and byte order: the helpers that every family uses. -/

namespace Sys2Proof.Machine

/-- Read a sparse table. -/
def tget {α : Type} (t : Tbl α) (k : Nat) (d : α) : α :=
  match t with
  | [] => d
  | (j, v) :: r => if j = k then v else tget r k d

/-- Put an entry into a sparse table by its key. -/
def tins {α : Type} (t : Tbl α) (k : Nat) (v : α) : Tbl α :=
  match t with
  | [] => [(k, v)]
  | (j, w) :: r => if k < j then (k, v) :: (j, w) :: r else if k = j then (k, v) :: r else (j, w) :: tins r k v

/-- Write a sparse table, keeping the keys rising and no entry equal to the default. -/
def tput {α : Type} [DecidableEq α] (t : Tbl α) (k : Nat) (v d : α) : Tbl α :=
  if v = d then t.filter fun e => e.1 ≠ k else tins t k v

/-- Change one entry of a sparse table. -/
def tmod {α : Type} [DecidableEq α] (t : Tbl α) (k : Nat) (d : α) (f : α → α) : Tbl α :=
  tput t k (f (tget t k d)) d

/-- Change every listed entry. -/
def tmap {α : Type} [DecidableEq α] (t : Tbl α) (d : α) (f : α → α) : Tbl α :=
  t.filterMap fun e => if f e.2 = d then none else some (e.1, f e.2)

/-- Erase the entries whose key lies in a range. -/
def tdrop {α : Type} (t : Tbl α) (lo hi : Nat) : Tbl α :=
  t.filter fun e => e.1 < lo || hi ≤ e.1

/-- Bits [hi:lo] of a number. -/
def bits (x lo n : Nat) : Nat := (x >>> lo) % 2 ^ n

/-- Bit i of a number. -/
def bit (x i : Nat) : Bool := (x >>> i) % 2 = 1

/-- A Boolean as a bit. -/
def b2n (b : Bool) : Nat := if b then 1 else 0

/-- Replace the bits [lo+n-1:lo] of a register word. -/
def setBits (x : W64) (lo n v : Nat) : W64 :=
  BitVec.ofNat 64 (x.toNat - (bits x.toNat lo n) <<< lo + (v % 2 ^ n) <<< lo)

/-- Read a little-endian number from bytes (R20). -/
def leNat : List Byte → Nat
  | [] => 0
  | b :: r => b.toNat + 256 * leNat r

/-- A number as n little-endian bytes (R20). -/
def natLe : Nat → Nat → List Byte
  | 0, _ => []
  | n + 1, x => BitVec.ofNat 8 x :: natLe n (x / 256)

/-- A number as n big-endian bytes. -/
def natBe (n x : Nat) : List Byte := (natLe n x).reverse

/-- Read a big-endian number. -/
def beNat (l : List Byte) : Nat := leNat l.reverse

/-- n bytes of a list from an offset; positions beyond the end read 0. -/
def slice (l : List Byte) (off n : Nat) : List Byte :=
  let r := (l.drop off).take n
  r ++ List.replicate (n - r.length) 0

/-- The 64-bit little-endian word at a byte offset. -/
def wordAt (l : List Byte) (off : Nat) : Nat := leNat (slice l off 8)

/-- A field of the 64-bit word at a byte offset. -/
def fieldAt (l : List Byte) (off lo n : Nat) : Nat := bits (wordAt l off) lo n

/-- Whether a byte range of a list is all zero. -/
def allZero (l : List Byte) (off n : Nat) : Bool := (slice l off n).all (· = 0)

/-- The smaller of a number and a ceiling: a saturating counter. -/
def sat (cap x : Nat) : Nat := if x < cap then x else cap

/-- Round up a quotient. -/
def cdiv (a b : Nat) : Nat := if b = 0 then 0 else (a + b - 1) / b

/-- The least n with x ≤ 2^n. -/
def clog2 (x : Nat) : Nat := if x ≤ 1 then 0 else Nat.log2 (x - 1) + 1

/-- Read two's complement. -/
def sgn (w x : Nat) : Int := if x % 2 ^ w < 2 ^ (w - 1) then (x % 2 ^ w : Nat) else (x % 2 ^ w : Nat) - (2 ^ w : Nat)

/-- Write two's complement. -/
def unsgn (w : Nat) (x : Int) : Nat := (x % (2 ^ w : Nat)).toNat

/-- Element i of a list of numbers, 0 beyond it. -/
def nth (l : List Nat) (i : Nat) : Nat := l.getD i 0

/-- Whether tile number t names a tile (R33). -/
def isTile (t : TileNo) : Bool := t.toNat % 16 < 11

/-- Whether an address range lies in the Serai. -/
def inSerai (a n : Nat) : Bool := a + n ≤ 0x80000000

/-- The first HBM address. -/
abbrev hbmBase : Nat := 0x10000000000

/-- The bytes of one stack. -/
abbrev stackBytes : Nat := 0xC00000000

/-- The end of HBM. -/
abbrev hbmEnd : Nat := 0x16000000000

/-- Whether an address range lies in HBM. -/
def inHbm (a n : Nat) : Bool := hbmBase ≤ a && a + n ≤ hbmEnd

/-- Draw a free value (log entry 7). -/
def freshFree (s : State) : State := { s with free := s.free + 1 }

end Sys2Proof.Machine
end

