-- ==== Sys2Proof/Machine/Crypto.lean ====
section
/-! DEFINITION. SHA-384, HMAC-SHA-384 and ECDSA on P-384 with the nonces of RFC 6979, as the rules on evidence, images and owner
records use them (R371, R404 to R406, R516, R529, R538, R541). -/

namespace Sys2Proof.Machine

/-! ### SHA-384 -/

/-- The round constants of SHA-512 and SHA-384. -/
def shaK : List (BitVec 64) :=
  [0x428A2F98D728AE22, 0x7137449123EF65CD, 0xB5C0FBCFEC4D3B2F, 0xE9B5DBA58189DBBC]
    ++ [0x3956C25BF348B538, 0x59F111F1B605D019, 0x923F82A4AF194F9B, 0xAB1C5ED5DA6D8118]
    ++ [0xD807AA98A3030242, 0x12835B0145706FBE, 0x243185BE4EE4B28C, 0x550C7DC3D5FFB4E2]
    ++ [0x72BE5D74F27B896F, 0x80DEB1FE3B1696B1, 0x9BDC06A725C71235, 0xC19BF174CF692694]
    ++ [0xE49B69C19EF14AD2, 0xEFBE4786384F25E3, 0x0FC19DC68B8CD5B5, 0x240CA1CC77AC9C65]
    ++ [0x2DE92C6F592B0275, 0x4A7484AA6EA6E483, 0x5CB0A9DCBD41FBD4, 0x76F988DA831153B5]
    ++ [0x983E5152EE66DFAB, 0xA831C66D2DB43210, 0xB00327C898FB213F, 0xBF597FC7BEEF0EE4]
    ++ [0xC6E00BF33DA88FC2, 0xD5A79147930AA725, 0x06CA6351E003826F, 0x142929670A0E6E70]
    ++ [0x27B70A8546D22FFC, 0x2E1B21385C26C926, 0x4D2C6DFC5AC42AED, 0x53380D139D95B3DF]
    ++ [0x650A73548BAF63DE, 0x766A0ABB3C77B2A8, 0x81C2C92E47EDAEE6, 0x92722C851482353B]
    ++ [0xA2BFE8A14CF10364, 0xA81A664BBC423001, 0xC24B8B70D0F89791, 0xC76C51A30654BE30]
    ++ [0xD192E819D6EF5218, 0xD69906245565A910, 0xF40E35855771202A, 0x106AA07032BBD1B8]
    ++ [0x19A4C116B8D2D0C8, 0x1E376C085141AB53, 0x2748774CDF8EEB99, 0x34B0BCB5E19B48A8]
    ++ [0x391C0CB3C5C95A63, 0x4ED8AA4AE3418ACB, 0x5B9CCA4F7763E373, 0x682E6FF3D6B2B8A3]
    ++ [0x748F82EE5DEFB2FC, 0x78A5636F43172F60, 0x84C87814A1F0AB72, 0x8CC702081A6439EC]
    ++ [0x90BEFFFA23631E28, 0xA4506CEBDE82BDE9, 0xBEF9A3F7B2C67915, 0xC67178F2E372532B]
    ++ [0xCA273ECEEA26619C, 0xD186B8C721C0C207, 0xEADA7DD6CDE0EB1E, 0xF57D4F7FEE6ED178]
    ++ [0x06F067AA72176FBA, 0x0A637DC5A2C898A6, 0x113F9804BEF90DAE, 0x1B710B35131C471B]
    ++ [0x28DB77F523047D84, 0x32CAAB7B40C72493, 0x3C9EBE0A15C9BEBC, 0x431D67C49C100D4C]
    ++ [0x4CC5D4BECB3E42B6, 0x597F299CFC657E2A, 0x5FCB6FAB3AD6FAEC, 0x6C44198C4A475817]

/-- The initial hash value of SHA-384. -/
def shaH : List (BitVec 64) :=
  [0xCBBB9D5DC1059ED8, 0x629A292A367CD507, 0x9159015A3070DD17, 0x152FECD8F70E5939]
    ++ [0x67332667FFC00B31, 0x8EB44A8768581511, 0xDB0C2E0D64F98FA7, 0x47B5481DBEFA4FA4]

/-- One message-schedule word from the last sixteen, newest first. -/
def shaNext (w : List (BitVec 64)) : BitVec 64 :=
  let a := w.getD 1 0
  let b := w.getD 14 0
  (a.rotateRight 19 ^^^ a.rotateRight 61 ^^^ (a >>> 6)) + w.getD 6 0 + (b.rotateRight 1 ^^^ b.rotateRight 8 ^^^ (b >>> 7)) + w.getD 15 0

/-- One round on the eight working words. -/
def shaRound (v : List (BitVec 64)) (k w : BitVec 64) : List (BitVec 64) :=
  match v with
  | [a, b, c, d, e, f, g, h] =>
    let t1 := h + (e.rotateRight 14 ^^^ e.rotateRight 18 ^^^ e.rotateRight 41) + ((e &&& f) ^^^ (~~~e &&& g)) + k + w
    let t2 := (a.rotateRight 28 ^^^ a.rotateRight 34 ^^^ a.rotateRight 39) + ((a &&& b) ^^^ (a &&& c) ^^^ (b &&& c))
    [t1 + t2, a, b, c, d + t1, e, f, g]
  | _ => v

/-- Compress one 128-byte block. -/
def shaBlock (h : List (BitVec 64)) (blk : List Byte) : List (BitVec 64) :=
  let w0 := (List.range 16).map fun i => BitVec.ofNat 64 (beNat (slice blk (8 * i) 8))
  let ws := (List.range 64).foldl (fun (acc : List (BitVec 64) × List (BitVec 64)) _ =>
    let x := shaNext acc.1
    ((x :: acc.1).take 16, x :: acc.2)) (w0.reverse, w0.reverse)
  let v := (shaK.zip ws.2.reverse).foldl (fun v x => shaRound v x.1 x.2) h
  (h.zip v).map fun x => x.1 + x.2

/-- SHA-384 of some bytes. -/
def sha384 (l : List Byte) : List Byte :=
  let n := l.length
  let z := (256 - (n + 17) % 128) % 128
  let m := l ++ [0x80] ++ List.replicate z 0 ++ natBe 16 (8 * n)
  let h := (List.range (m.length / 128)).foldl (fun h i => shaBlock h (slice m (128 * i) 128)) shaH
  (h.take 6).flatMap fun x => natBe 8 x.toNat

/-- HMAC-SHA-384 with a key of at most 128 bytes. -/
def hmac384 (k m : List Byte) : List Byte :=
  let k := slice k 0 128
  sha384 (k.map (· ^^^ 0x5C) ++ sha384 (k.map (· ^^^ 0x36) ++ m))

/-- Block i of the counter-mode KDF of NIST SP 800-108 with HMAC-SHA-384 (R538): counter, label, a zero byte, context and the length in bits (log
entry 12). -/
def kdf384 (k label ctx : List Byte) (i : Nat) : List Byte := hmac384 k (natBe 4 i ++ label ++ [0] ++ ctx ++ natBe 4 384)

/-! ### P-384 -/

/-- The prime of the field. -/
def p384 : Nat := 2 ^ 384 - 2 ^ 128 - 2 ^ 96 + 2 ^ 32 - 1
/-- The order of the base point. -/
def n384 : Nat := 0xFFFFFFFFFFFFFFFFFFFFFFFFFFFFFFFFFFFFFFFFFFFFFFFFC7634D81F4372DDF581A0DB248B0A77AECEC196ACCC52973
/-- The coefficient b. -/
def b384 : Nat := 0xB3312FA7E23EE7E4988E056BE3F82D19181D9C6EFE8141120314088F5013875AC656398D8A2ED19D2A85C8EDD3EC2AEF
/-- The base point. -/
def g384 : Nat × Nat :=
  (0xAA87CA22BE8B05378EB1C71EF320AD746E1D3B628BA79B9859F741E082542A385502F25DBF55296C3A545E3872760AB7,
   0x3617DE4A96262C6F5D9E98BF9292DC29F8F41DBD289A147CE9DA3113B5F0B8C00A60B1CE1D7E819D7A431D7C90EA0E5F)

/-- x^e mod m, by the bits of e from the lowest. -/
def powMod (m : Nat) (x e : Nat) : Nat :=
  ((List.range 384).foldl (fun (acc : Nat × Nat) i => (if bit e i then acc.1 * acc.2 % m else acc.1, acc.2 * acc.2 % m)) (1 % m, x % m)).1

/-- The inverse modulo a prime. -/
def invMod (m x : Nat) : Nat := powMod m x (m - 2)

/-- A difference modulo p. -/
def subP (a b : Nat) : Nat := (a % p384 + (p384 - b % p384)) % p384

/-- Points in Jacobian coordinates; z = 0 is the point at infinity. -/
abbrev JPoint := Nat × Nat × Nat

/-- Double a point. -/
def ecDouble (a : JPoint) : JPoint :=
  let (x, y, z) := a
  if z = 0 || y = 0 then (1, 1, 0)
  else
    let d := z * z % p384
    let g := y * y % p384
    let b := x * g % p384
    let al := 3 * subP x d * (x + d) % p384
    let x3 := subP (al * al) (8 * b)
    (x3, subP (al * subP (4 * b) x3) (8 * g * g), 2 * y * z % p384)

/-- Add two points. -/
def ecAdd (a b : JPoint) : JPoint :=
  let (x1, y1, z1) := a
  let (x2, y2, z2) := b
  if z1 = 0 then b else if z2 = 0 then a
  else
    let u1 := x1 * (z2 * z2 % p384) % p384
    let u2 := x2 * (z1 * z1 % p384) % p384
    let s1 := y1 * (z2 * z2 % p384 * z2 % p384) % p384
    let s2 := y2 * (z1 * z1 % p384 * z1 % p384) % p384
    if u1 = u2 then (if s1 = s2 then ecDouble a else (1, 1, 0))
    else
      let h := subP u2 u1
      let r := subP s2 s1
      let h2 := h * h % p384
      let h3 := h2 * h % p384
      let v := u1 * h2 % p384
      let x3 := subP (subP (r * r) h3) (2 * v)
      (x3, subP (r * subP v x3) (s1 * h3), h * (z1 * z2 % p384) % p384)

/-- k times a point. -/
def ecMul (k : Nat) (a : Nat × Nat) : JPoint :=
  (List.range 384).foldl (fun acc i => let acc := ecDouble acc; if bit k (383 - i) then ecAdd acc (a.1, a.2, 1) else acc) (1, 1, 0)

/-- Affine coordinates. -/
def ecAffine (a : JPoint) : Nat × Nat :=
  let zi := invMod p384 a.2.2
  (a.1 * (zi * zi % p384) % p384, a.2.1 * (zi * zi % p384 * zi % p384) % p384)

/-- A private key from the KDF's output by testing candidates (R538, FIPS 186-5): the first block below n - 1, plus 1; the 64th whatever it is
(log entry 12). -/
def keyFrom (k label ctx : List Byte) : Nat :=
  let rec go (fuel i : Nat) : Nat :=
    let c := beNat (kdf384 k label ctx i)
    match fuel with
    | 0 => c % (n384 - 1) + 1
    | n + 1 => if c < n384 - 1 then c + 1 else go n (i + 1)
  go 63 1

/-- A public key in uncompressed SEC 1 form. -/
def pubBytes (d : Nat) : List Byte :=
  let q := ecAffine (ecMul d g384)
  [0x04] ++ natBe 48 q.1 ++ natBe 48 q.2

/-- The first nonce of RFC 6979 with SHA-384 for a hash; the state (K, V) goes on where a candidate fails. -/
def rfcNonce (d : Nat) (h : List Byte) : Nat :=
  let hx := natBe 48 (beNat h % n384)
  let x := natBe 48 d
  let v := List.replicate 48 (1 : Byte)
  let k := hmac384 (List.replicate 48 0) (v ++ [0] ++ x ++ hx)
  let v := hmac384 k v
  let k := hmac384 k (v ++ [1] ++ x ++ hx)
  let v := hmac384 k v
  let rec go (fuel : Nat) (k v : List Byte) : Nat :=
    let v := hmac384 k v
    let t := beNat v
    match fuel with
    | 0 => t
    | n + 1 => if 0 < t && t < n384 then t else
        let k := hmac384 k (v ++ [0])
        go n k (hmac384 k v)
  go 64 k v

/-- The ECDSA signature of a hash (FIPS 186-5, RFC 6979). -/
def ecSign (d : Nat) (h : List Byte) : Nat × Nat :=
  let k := rfcNonce d h
  let r := (ecAffine (ecMul k g384)).1 % n384
  (r, invMod n384 k * (beNat h + r * d) % n384)

/-- Whether a 97-byte key is a point of the curve in uncompressed form. -/
def keyOk (key : List Byte) : Bool :=
  let x := beNat (slice key 1 48)
  let y := beNat (slice key 49 48)
  key.headD 0 = 4 && x < p384 && y < p384 && y * y % p384 = (x * x % p384 * x + (p384 - 3) * x + b384) % p384

/-- ECDSA verification of a hash under an uncompressed key. -/
def ecVerify (key h : List Byte) (r s : Nat) : Bool :=
  keyOk key && 0 < r && r < n384 && 0 < s && s < n384 &&
    (let w := invMod n384 s
     let a := ecAdd (ecMul (beNat h * w % n384) g384) (ecMul (r * w % n384) (beNat (slice key 1 48), beNat (slice key 49 48)))
     a.2.2 ≠ 0 && (ecAffine a).1 % n384 = r)

/-- Whether the last 96 bytes of an image sign the bytes before them under a key (R516, R541). -/
def imgSigned (key img : List Byte) : Bool :=
  let n := img.length - 96
  ecVerify key (sha384 (img.take n)) (leNat (slice img n 48)) (leNat (slice img (n + 48) 48))

end Sys2Proof.Machine
end

