-- ==== Sys2Proof/Machine/Flags.lean ====
section
/-! DEFINITION. Number formats, exact values, rounding with every flag it raises, and the numeric report. -/

namespace Sys2Proof.Machine

/-! ### Values and formats (R52 to R59) -/

/-- An exact value: NaN, an infinity, or (−1)^neg × num / den × 2^e. -/
inductive Val where
  | nan
  | inf (neg : Bool)
  | fin (neg : Bool) (num den : Nat) (e : Int)
deriving DecidableEq, Repr

/-- A format: element width, mantissa bits, exponent bias, exponent of the smallest normal, and the largest finite
value as maxQ × 2^maxG. `kind`: 0 finite only, 1 one NaN code (E4M3), 2 IEEE specials, 3 integer. -/
structure Fmt where
  width : Nat
  w : Nat
  bias : Nat
  emin : Int
  maxQ : Nat
  maxG : Int
  kind : Nat
deriving DecidableEq, Repr

/-- The formats of R52 and R54, Ledger words aside. -/
def fmtOf (code : Nat) : Option Fmt :=
  match code with
  | 0x01 => some ⟨4, 1, 1, 0, 3, 1, 0⟩
  | 0x02 => some ⟨6, 3, 1, 0, 15, -1, 0⟩
  | 0x03 => some ⟨6, 2, 3, -2, 7, 2, 0⟩
  | 0x04 => some ⟨8, 3, 7, -6, 14, 5, 1⟩
  | 0x05 => some ⟨8, 2, 15, -14, 7, 13, 2⟩
  | 0x08 => some ⟨16, 7, 127, -126, 255, 120, 2⟩
  | 0x09 => some ⟨16, 10, 15, -14, 2047, 5, 2⟩
  | 0x0A => some ⟨32, 23, 127, -126, 0xFFFFFF, 104, 2⟩
  | 0x0B => some ⟨64, 52, 1023, -1022, 0x1FFFFFFFFFFFFF, 971, 2⟩
  | 0x10 => some ⟨4, 2, 0, 2, 7, 0, 3⟩
  | 0x11 => some ⟨8, 6, 0, 6, 127, 0, 3⟩
  | 0x12 => some ⟨32, 30, 0, 30, 0x7FFFFFFF, 0, 3⟩
  | _ => none

/-- FP32. -/
def fp32 : Fmt := ⟨32, 23, 127, -126, 0xFFFFFF, 104, 2⟩

/-- FP64. -/
def fp64 : Fmt := ⟨64, 52, 1023, -1022, 0x1FFFFFFFFFFFFF, 971, 2⟩

/-- The element width of a format code in bits (R52, R206); 0 for an undefined code. -/
def fmtBits (code : Nat) : Nat := if code = 0x20 then 256 else match fmtOf code with | some f => f.width | none => 0

/-- A floating-point format of R54. -/
def isFp (code : Nat) : Bool := (1 ≤ code && code ≤ 5) || (8 ≤ code && code ≤ 0xB)

/-- An INT format. -/
def isInt (code : Nat) : Bool := code == 0x10 || code == 0x11 || code == 0x12

/-- A defined format code (R52). -/
def isFmt (code : Nat) : Bool := isFp code || isInt code || code == 0x20

/-- FP4, FP6 or FP8: the formats that may carry block scales (R75). -/
def isNarrow (code : Nat) : Bool := 1 ≤ code && code ≤ 5

/-- The value of an encoding (R55, R59). -/
def decodeVal (f : Fmt) (x : Nat) : Val :=
  if f.kind = 3 then
    let v := sgn f.width x
    .fin (v < 0) v.natAbs 1 0
  else
    let neg := bit x (f.width - 1)
    let eb := f.width - 1 - f.w
    let ex := bits x f.w eb
    let m := bits x 0 f.w
    if f.kind = 2 && ex = 2 ^ eb - 1 then (if m = 0 then .inf neg else .nan)
    else if f.kind = 1 && ex = 2 ^ eb - 1 && m = 2 ^ f.w - 1 then .nan
    else if ex = 0 then .fin neg m 1 (1 - (f.bias : Int) - f.w)
    else .fin neg (2 ^ f.w + m) 1 ((ex : Int) - f.bias - f.w)

/-- The canonical NaN of a format (R58), or 0 where it has none. -/
def canonNan (f : Fmt) : Nat :=
  if f.kind = 2 then ((2 ^ (f.width - 1 - f.w) - 1) <<< f.w) + 2 ^ (f.w - 1) else if f.kind = 1 then 0x7F else 0

/-- The encoding of an infinity of a format that has one. -/
def infEnc (f : Fmt) (neg : Bool) : Nat := ((2 ^ (f.width - 1 - f.w) - 1) <<< f.w) + (if neg then 2 ^ (f.width - 1) else 0)

/-- Encode q × 2^(te − w). -/
def encFin (f : Fmt) (neg : Bool) (te : Int) (q : Nat) : Nat :=
  if f.kind = 3 then unsgn f.width (if neg then -(q : Int) else q)
  else
    let s := if neg then 2 ^ (f.width - 1) else 0
    if q < 2 ^ f.w then s + q else s + ((te + f.bias).toNat <<< f.w) + (q - 2 ^ f.w)

/-- The encoding of the largest finite value. -/
def maxEnc (f : Fmt) (neg : Bool) : Nat := encFin f neg (f.maxG + f.w) f.maxQ

/-- The result of a rounding, with what it raised: overflow by R86, overflow as IEEE 754-2019 has it (R91: the value rounded with an unbounded
exponent lies beyond the largest finite value), a non-zero value rounded to zero, inexact, tiny. -/
structure Rnd where
  enc : Nat
  ovf : Bool := false
  big : Bool := false
  zero : Bool := false
  spec : Bool := false
  inexact : Bool := false
  tiny : Bool := false
deriving DecidableEq, Repr

/-- floor(log2(num/den)) for a positive quotient. -/
def flog (num den : Nat) : Int :=
  let l : Int := (num.log2 : Int) - den.log2
  if l ≥ 0 then (if num < den * 2 ^ l.toNat then l - 1 else l)
  else (if num * 2 ^ (-l).toNat < den then l - 1 else l)

/-- num / den × 2^sh as a fraction of naturals. -/
def scaleFrac (num den : Nat) (sh : Int) : Nat × Nat := if sh ≥ 0 then (num <<< sh.toNat, den) else (num, den <<< (-sh).toNat)

/-- Whether the rounding goes to the upper neighbour in magnitude (R83, R85, R113): 0 RNE, 1 RTZ, 2 SR with draw u,
3 toward +∞, 4 toward −∞. -/
def roundUp (rnd : Nat) (neg : Bool) (q rem den u : Nat) : Bool :=
  if rem = 0 then false
  else match rnd with
    | 0 => 2 * rem > den || (2 * rem = den && q % 2 = 1)
    | 2 => u < rem * 2 ^ 32 / den
    | 3 => !neg
    | 4 => neg
    | _ => false

/-- Round a positive value num/den × 2^e to a format (R85, R86, R88, R135). -/
def roundFin (f : Fmt) (rnd : Nat) (sat : Bool) (u : Nat) (neg : Bool) (num den : Nat) (e : Int) : Rnd :=
  if num = 0 then { enc := if f.kind = 3 || !neg then 0 else 2 ^ (f.width - 1) }
  else
    let (mn, md) := scaleFrac num den (e - f.maxG)
    if f.maxQ * md < mn then
      let rem := mn - f.maxQ * md
      let high := match rnd with
        | 0 => md ≤ 2 * rem
        | 2 => md ≤ rem || u < rem * 2 ^ 32 / md
        | 3 => !neg
        | 4 => neg
        | _ => false
      let big := high || md ≤ rem
      if !high || sat || f.kind = 0 || f.kind = 3 then { enc := maxEnc f neg, ovf := high, big := big, inexact := true }
      else if f.kind = 1 then { enc := canonNan f, ovf := true, big := true, inexact := true }
      else { enc := infEnc f neg, ovf := true, big := true, inexact := true }
    else
      let lead := flog num den + e
      let te := max lead f.emin
      let (n, d) := scaleFrac num den (e - (te - f.w))
      let q := n / d
      let rem := n % d
      let q' := if roundUp rnd neg q rem d u then q + 1 else q
      let (te', q'') := if q' = 2 ^ (f.w + 1) then (te + 1, q' / 2) else (te, q')
      let (n2, d2) := scaleFrac num den (e - (lead - f.w))
      let t := n2 / d2
      let t' := if roundUp rnd neg t (n2 % d2) d2 u then t + 1 else t
      let tiny := lead < f.emin && !(lead = f.emin - 1 && t' = 2 ^ (f.w + 1))
      { enc := encFin f neg te' q'', zero := q'' = 0, inexact := rem ≠ 0, tiny := tiny }

/-- Convert a value to a format (R85 to R88). -/
def convert (f : Fmt) (rnd : Nat) (sat : Bool) (u : Nat) (v : Val) : Rnd :=
  match v with
  | .nan => { enc := canonNan f, spec := f.kind = 0 || f.kind = 3 }
  | .inf neg =>
    if f.kind = 2 then { enc := infEnc f neg }
    else if f.kind = 1 && !sat then { enc := canonNan f, spec := true }
    else { enc := maxEnc f neg, spec := true }
  | .fin neg num den e => roundFin f rnd sat u neg num den e

/-! ### Exact arithmetic on values -/

/-- Negation. -/
def Val.neg : Val → Val
  | .nan => .nan | .inf n => .inf (!n) | .fin n a d e => .fin (!n) a d e

/-- Whether a value is zero. -/
def Val.isZero : Val → Bool
  | .fin _ 0 _ _ => true | _ => false

/-- Whether a value is negative, −0 included. -/
def Val.isNeg : Val → Bool
  | .nan => false | .inf n => n | .fin n _ _ _ => n

/-- Whether a value is finite. -/
def Val.isFin : Val → Bool
  | .fin .. => true | _ => false

/-- The signed numerator of a finite value brought to denominator 1 exponent e. -/
def Val.intAt (e : Int) : Val → Int
  | .fin n a _ x => let m : Int := (a : Int) * 2 ^ (x - e).toNat; if n then -m else m
  | _ => 0

/-- The exponent of a finite value. -/
def Val.exp : Val → Int
  | .fin _ _ _ e => e | _ => 0

/-- The exact product; the sign of a zero product is the product of the signs. -/
def Val.mul (x y : Val) : Val :=
  match x, y with
  | .nan, _ | _, .nan => .nan
  | .inf a, .inf b => .inf (a != b)
  | .inf a, .fin n m _ _ => if m = 0 then .nan else .inf (a != n)
  | .fin n m _ _, .inf a => if m = 0 then .nan else .inf (a != n)
  | .fin n a d e, .fin n' a' d' e' => .fin (n != n') (a * a') (d * d') (e + e')

/-- The exact sum of two dyadic values (denominators 1); an exact zero sum is −0 only where both are −0, or under the
rounding toward −∞ (R90). -/
def Val.add (rnd : Nat) (x y : Val) : Val :=
  match x, y with
  | .nan, _ | _, .nan => .nan
  | .inf a, .inf b => if a = b then .inf a else .nan
  | .inf a, _ => .inf a
  | _, .inf b => .inf b
  | .fin n a _ e, .fin n' a' _ e' =>
    let g := min e e'
    let z := Val.intAt g (.fin n a 1 e) + Val.intAt g (.fin n' a' 1 e')
    if z = 0 then .fin (if n = n' then n else rnd == 4) 0 1 0 else .fin (z < 0) z.natAbs 1 g

/-- The exact quotient. -/
def Val.div (x y : Val) : Val :=
  match x, y with
  | .nan, _ | _, .nan => .nan
  | .inf _, .inf _ => .nan
  | .inf a, .fin n _ _ _ => .inf (a != n)
  | .fin n _ _ _, .inf a => .fin (n != a) 0 1 0
  | .fin n a d e, .fin n' a' d' e' =>
    if a' = 0 then (if a = 0 then .nan else .inf (n != n')) else .fin (n != n') (a * d') (d * a') (e - e')

/-- The integer square root by Newton's method from above. -/
def isqrt (n : Nat) : Nat :=
  let rec go (fuel x : Nat) : Nat :=
    match fuel with
    | 0 => x
    | k + 1 => let y := (x + n / x) / 2; if y < x then go k y else x
  if n = 0 then 0 else go (n.log2 + 8) (2 ^ (n.log2 / 2 + 1))

/-- The square root, exact or bracketed finely enough for one correct rounding: at least 128 bits of the root and one that says that it goes
on, beyond the 53 + 32 bits that a stochastic rounding to FP64 looks at (R113). -/
def Val.sqrt (x : Val) : Val :=
  match x with
  | .nan => .nan
  | .inf n => if n then .nan else .inf false
  | .fin n a _ e =>
    if a = 0 then .fin n 0 1 0
    else if n then .nan
    else
      let (a, e) := if e % 2 = 0 then (a, e) else (2 * a, e - 1)
      let m := a <<< 256
      let r := isqrt m
      if r * r = m then .fin false r 1 (e / 2 - 128) else .fin false (2 * r + 1) 1 (e / 2 - 129)

/-- Compare two values, NaN apart: −0 orders below +0 (R92). -/
def Val.lt (x y : Val) : Bool :=
  match x, y with
  | .nan, _ | _, .nan => false
  | .inf a, .inf b => a && !b
  | .inf a, _ => a
  | _, .inf b => !b
  | .fin n a d e, .fin n' a' d' e' =>
    let g := min e e'
    let u := Val.intAt g (.fin n a 1 e) * d'
    let v := Val.intAt g (.fin n' a' 1 e') * d
    u < v || (u = v && a = 0 && n && !n')

/-! ### The dither function (R114 to R117) -/

/-- g of R116. -/
def ditherG (x : BitVec 32) : BitVec 32 :=
  let x := x + 0x9e3779b9
  let x := x ^^^ (x >>> 16)
  let x := x + (x <<< 8)
  x ^^^ (x >>> 12)

/-- The dither function over its words (R116). -/
def ditherW (ws : List (BitVec 32)) : BitVec 32 := ditherG (ws.foldl (fun h w => ditherG (h ^^^ w)) 0x5a827999)

/-- The dither draw of a quantity at its coordinates (R114). -/
def dither (seed tid nl b m n k : Nat) : Nat :=
  (ditherW [BitVec.ofNat 32 seed, BitVec.ofNat 32 (seed >>> 32), BitVec.ofNat 32 tid,
    BitVec.ofNat 32 (nl <<< 24 ||| b % 2 ^ 24), BitVec.ofNat 32 m, BitVec.ofNat 32 n, BitVec.ofNat 32 k]).toNat

/-! ### The numeric report (R89, R91, R133) -/

/-- The numeric report, its counters unsaturated. -/
structure Rep where
  bits : Nat := 0
  ovf : Nat := 0
  spec : Nat := 0
  zero : Nat := 0
deriving DecidableEq, Repr

/-- Join two reports: every field is a function of the outputs alone (R133). -/
def Rep.join (a b : Rep) : Rep := ⟨a.bits ||| b.bits, a.ovf + b.ovf, a.spec + b.spec, a.zero + b.zero⟩

/-- The report word (R133). -/
def Rep.word (r : Rep) : W64 :=
  BitVec.ofNat 64 (r.bits % 2 ^ 11 + (sat 0xFFFF r.ovf) <<< 16 + (sat 0xFFFF r.spec) <<< 32 + (sat 0xFFFF r.zero) <<< 48)

/-- Set flag bit i where a condition holds. -/
def repBit (i : Nat) (c : Bool) : Rep := { bits := if c then 2 ^ i else 0 }

/-- What a conversion counts (R89). -/
def repConv (r : Rnd) : Rep := ⟨0, b2n r.ovf, b2n r.spec, b2n r.zero⟩

/-- The IEEE flags of a rounding to FP32 or FP64 (R91): tininess after rounding. -/
def repIeee (r : Rnd) : Rep :=
  { bits := (if r.big then 2 ^ 8 else 0) + (if r.tiny && r.inexact then 2 ^ 9 else 0) + (if r.inexact then 2 ^ 10 else 0) }

/-- A vector operation of R156 and R198: 1 add, 2 sub, 3 mul, 4 fma, 5 div, 6 sqrt, 7 min, 8 max, 9 conversion. The
exact result, with invalid and division-by-zero (R91); `snan` says whether an operand is a signalling NaN. -/
def vecExact (op rnd : Nat) (a b c : Val) (snan : Bool) : Val × Rep :=
  let inv (v : Val) (i : Bool) : Val × Rep := (v, repBit 6 (i || snan))
  let isInf (v : Val) : Bool := match v with | .inf _ => true | _ => false
  match op with
  | 1 => inv (Val.add rnd a b) (isInf a && isInf b && a.isNeg != b.isNeg)
  | 2 => inv (Val.add rnd a b.neg) (isInf a && isInf b && a.isNeg == b.isNeg)
  | 3 => inv (Val.mul a b) ((isInf a && b.isZero) || (a.isZero && isInf b))
  | 4 =>
    let bad := (isInf a && b.isZero) || (a.isZero && isInf b)
    let p := Val.mul a b
    inv (Val.add rnd p c) (bad || (isInf p && isInf c && p.isNeg != c.isNeg))
  | 5 =>
    let (v, r) := inv (Val.div a b) ((a.isZero && b.isZero) || (isInf a && isInf b))
    (v, r.join (repBit 7 (a.isFin && !a.isZero && b.isZero)))
  | 6 => inv a.sqrt (a.isNeg && !a.isZero && a ≠ .nan)
  | 7 => inv (if a = .nan ∨ b = .nan then .nan else if b.lt a then b else a) false
  | 8 => inv (if a = .nan ∨ b = .nan then .nan else if a.lt b then b else a) false
  | _ => inv a false

/-- A signalling NaN of an IEEE-style format: the top mantissa bit is 0. -/
def isSnan (f : Fmt) (x : Nat) : Bool := f.kind = 2 && decodeVal f x = .nan && !bit x (f.w - 1)

/-- What a conversion to a format reports: every one is counted by R89, and one whose target is FP32 or FP64 raises the IEEE flags of R91 too
(log entry 101). -/
def repTo (f : Fmt) (r : Rnd) : Rep := if f.kind = 2 && 32 ≤ f.width then (repConv r).join (repIeee r) else repConv r

/-- What the rounding of a vector operation reports: a result in FP32 or FP64 raises the IEEE flags (R91); a conversion, operation 9, a result
in a narrower format than the one computed in, and a result in another format are counted by R89. -/
def repVec (op : Nat) (computed : Nat) (f : Fmt) (r : Rnd) : Rep :=
  if op ≠ 9 && f.kind = 2 && 32 ≤ f.width && computed ≤ f.width then repIeee r else repTo f r

/-- One vector operation on encodings of FP32 or FP64, rounded once to `out` (R90 to R92, R198). -/
def vecOp (op : Nat) (inF out : Fmt) (rnd : Nat) (sat : Bool) (u : Nat) (a b c : Nat) : Nat × Rep :=
  let n := if op = 4 then 3 else if op = 6 || op = 9 then 1 else 2
  let sn := isSnan inF a || (2 ≤ n && isSnan inF b) || (n = 3 && isSnan inF c)
  let (v, r) := vecExact op rnd (decodeVal inF a) (decodeVal inF b) (decodeVal inF c) sn
  let x := convert out rnd sat u v
  (x.enc, r.join (repVec op inF.width out x))

/-- Widen an encoding of a format below FP64 to FP32 (R62): exact, and a NaN keeps its payload, so that a signalling one
is still met as one. -/
def widen32 (code x : Nat) : Nat :=
  match fmtOf code with
  | none => 0
  | some f =>
    if code = 0xA then x
    else if f.kind = 2 && decodeVal f x = .nan then
      (if bit x (f.width - 1) then 2 ^ 31 else 0) + 0x7F800000 + (bits x 0 f.w) <<< (23 - f.w)
    else (convert fp32 0 false 0 (decodeVal f x)).enc

/-- One FP32 operation in RNE, as the update units and the epilogue run it. -/
def f32 (op a b c : Nat) : Nat × Rep := vecOp op fp32 fp32 0 false 0 a b c

end Sys2Proof.Machine
end

