-- ==== Sys2Proof/Machine/Activation.lean ====
section
/-! DEFINITION. The Serving activations (R175): each delivers the correctly rounded value of the exact function, found by
interval arithmetic in fixed point at a growing precision. -/

namespace Sys2Proof.Machine

/-- An interval of numbers lo / 2^p to hi / 2^p. -/
structure Ivl where
  lo : Int
  hi : Int
deriving DecidableEq, Repr

/-- The sum. -/
def Ivl.add (a b : Ivl) : Ivl := ⟨a.lo + b.lo, a.hi + b.hi⟩

/-- The product at p fraction bits, rounded outwards. -/
def Ivl.mul (p : Nat) (a b : Ivl) : Ivl :=
  let l := [a.lo * b.lo, a.lo * b.hi, a.hi * b.lo, a.hi * b.hi]
  ⟨(l.foldl min (a.lo * b.lo)) / (2 ^ p : Int), -((-(l.foldl max (a.lo * b.lo))) / (2 ^ p : Int))⟩

/-- The quotient by a positive interval. -/
def Ivl.div (p : Nat) (a b : Ivl) : Ivl :=
  let q (x y : Int) : Int := x * 2 ^ p / y
  let u (x y : Int) : Int := -((-(x * 2 ^ p)) / y)
  ⟨min (q a.lo b.lo) (q a.lo b.hi), max (u a.hi b.lo) (u a.hi b.hi)⟩

/-- A whole number. -/
def Ivl.nat (p : Nat) (n : Int) : Ivl := ⟨n * 2 ^ p, n * 2 ^ p⟩

/-- Widen by a bound. -/
def Ivl.pad (a : Ivl) (e : Int) : Ivl := ⟨a.lo - e, a.hi + e⟩

/-- e^x for |x| ≤ 1: the Taylor series to n terms with its remainder. -/
def expSmall (p n : Nat) (x : Ivl) : Ivl :=
  let r := (List.range n).foldl (fun (acc : Ivl × Ivl) (i : Nat) =>
    let t := Ivl.div p (Ivl.mul p acc.2 x) (Ivl.nat p (i + 1))
    (acc.1.add t, t)) (Ivl.nat p 1, Ivl.nat p 1)
  r.1.pad (2 * max r.2.lo.natAbs r.2.hi.natAbs + 2)

/-- e^x by halving the argument until it is small and squaring back. -/
def expIvl (p n : Nat) (x : Ivl) : Ivl :=
  let k := (max x.lo.natAbs x.hi.natAbs).log2 + 2 - p
  let s := expSmall p n ⟨x.lo / (2 ^ k : Int), -((-x.hi) / (2 ^ k : Int))⟩
  let r := (List.range k).foldl (fun a _ => Ivl.mul p a a) s
  ⟨max r.lo 0, r.hi⟩

/-- erf's series times √π/2: the sum of (−1)^n x^(2n+1) / (n! (2n+1)), with its remainder, for terms enough to decrease. -/
def erfSeries (p n : Nat) (x : Ivl) : Ivl :=
  let x2 := Ivl.mul p x x
  let r := (List.range n).foldl (fun (acc : Ivl × Ivl) (i : Nat) =>
    let t := Ivl.div p (Ivl.mul p acc.2 x2) (Ivl.nat p (i + 1))
    let t : Ivl := ⟨-t.hi, -t.lo⟩
    (acc.1.add (Ivl.div p t (Ivl.nat p (2 * i + 3))), t)) (x, x)
  r.1.pad (max r.2.lo.natAbs r.2.hi.natAbs + 2)

/-- π at p fraction bits by Machin's formula. -/
def piIvl (p : Nat) : Ivl :=
  let atanInv (q : Nat) : Int := ((List.range (p + 8)).foldl (fun (acc : Int × Nat) i =>
    (if i % 2 = 0 then acc.1 + (acc.2 / (2 * i + 1) : Nat) else acc.1 - (acc.2 / (2 * i + 1) : Nat), acc.2 / (q * q)))
    (0, 2 ^ p / q)).1
  let v := 4 * (4 * atanInv 5 - atanInv 239)
  Ivl.pad ⟨v, v⟩ (20 * (p + 8))

/-- The square root of a positive interval. -/
def Ivl.sqrt (p : Nat) (a : Ivl) : Ivl := ⟨isqrt (a.lo.toNat * 2 ^ p), isqrt (a.hi.toNat * 2 ^ p) + 1⟩

/-- An activation's value in an interval (R175): 2 GELU, 3 GELU-tanh, 4 SiLU, 5 sigmoid, 6 tanh. The functions are formed
through logistic values with a negative exponent, so that small tails keep their relative precision. -/
def actIvl (act p n : Nat) (x : Ivl) : Ivl :=
  let one := Ivl.nat p 1
  -- σ(y) for an interval that does not change sign
  let sig (y : Ivl) : Ivl :=
    if y.hi ≤ 0 then let e := expIvl p n y; Ivl.div p e (one.add e)
    else let e := expIvl p n ⟨-y.hi, -y.lo⟩; Ivl.div p one (one.add e)
  let tanh (y : Ivl) : Ivl :=
    let neg := decide (y.hi ≤ 0)
    let z : Ivl := if neg then ⟨2 * y.lo, 2 * y.hi⟩ else ⟨-2 * y.hi, -2 * y.lo⟩
    let e := expIvl p n z
    let t := Ivl.div p ⟨one.lo - e.hi, one.hi - e.lo⟩ (one.add e)
    if neg then ⟨-t.hi, -t.lo⟩ else t
  match act with
  | 2 =>
    -- x/2 (1 + erf(x/√2)), erf by its series times 2/√π
    let z := Ivl.div p x (Ivl.sqrt p (Ivl.nat p 2))
    let e := Ivl.mul p (erfSeries p n z) (Ivl.div p (Ivl.nat p 2) (Ivl.sqrt p (piIvl p)))
    let h := Ivl.mul p x (one.add e)
    ⟨h.lo / 2, -((-h.hi) / 2)⟩
  | 3 =>
    -- x σ(2w), w = √(2/π)(x + 0.044715 x³)
    let x3 := Ivl.mul p x (Ivl.mul p x x)
    let w := Ivl.mul p (Ivl.sqrt p (Ivl.div p (Ivl.nat p 2) (piIvl p)))
      (x.add (Ivl.div p (Ivl.mul p x3 (Ivl.nat p 44715)) (Ivl.nat p 1000000)))
    Ivl.mul p x (sig ⟨2 * w.lo, 2 * w.hi⟩)
  | 4 => Ivl.mul p x (sig x)
  | 5 => sig x
  | _ => tanh x

/-- Round an interval to FP32 in RNE where both ends round alike. -/
def roundIvl (p : Nat) (a : Ivl) : Option Nat :=
  let r (z : Int) : Nat := (roundFin fp32 0 false 0 (z < 0) z.natAbs 1 (-(p : Int))).enc
  if (a.lo < 0 ∧ 0 ≤ a.hi) ∨ (a.lo = 0 ∧ a.hi ≠ 0) then none else if r a.lo = r a.hi then some (r a.lo) else none

/-- Raise the precision until the rounding is decided. -/
def actLoop (act : Nat) (neg : Bool) (m : Nat) (e : Int) : Nat → Nat → Option Nat
  | 0, _ => none
  | k + 1, p =>
    let v : Int := if e + p ≥ 0 then (m : Int) * 2 ^ (e + p).toNat else 0
    let v := if neg then -v else v
    match roundIvl p (actIvl act p (p + 64) ⟨v, v⟩) with
    | some r => some r
    | none => actLoop act neg m e k (2 * p)

/-- An activation on an FP32 encoding (R172, R175; none leaves it): the rounded result and whether it was rounded. A large negative argument
gives the limit, since the exact value lies nearer to it than half the least subnormal. -/
def activation (act x : Nat) : Nat × Rep :=
  let v := decodeVal fp32 x
  let lim (neg : Bool) : Nat :=
    if neg then (match act with | 1 => 0 | 5 => 0 | 6 => 0xBF800000 | _ => 0x80000000)
    else (match act with | 5 => 0x3F800000 | 6 => 0x3F800000 | _ => 0x7F800000)
  match v with
  | .nan => (canonNan fp32, {})
  | .inf n => (if act = 0 then x else lim n, {})
  | .fin neg m _ e =>
    match act with
    | 0 => (x, {})
    | 1 => (if neg then 0 else x, {})
    | _ =>
      if m = 0 then (if act = 5 then 0x3F000000 else x, {})
      else
        let big := decide ((if act = 2 ∨ act = 3 then 4 else 7) ≤ flog m 1 + e)
        if big then
          -- |x| ≥ 128, or 16 for the GELU forms: the tails have vanished; the positive side of the linear functions is x itself, rounded
          (if neg then (if act = 6 then 0xBF800000 else if act = 5 then 0 else 0x80000000)
            else if act = 5 || act = 6 then 0x3F800000 else x, repBit 10 true)
        else match actLoop act neg m e 8 256 with
          | some r => (r, repBit 10 true)
          | none => (x, repBit 10 true)

end Sys2Proof.Machine
end

