-- ==== Sys2Proof/Machine/Ledger.lean ====
section
/-! DEFINITION. The Ledger (R101 to R139) and the trimmed-ledger encoding (R373, R374). -/

namespace Sys2Proof.Machine

/-- 2^41 − 1, where terms saturates (R101). -/
abbrev termsMax : Nat := 2 ^ 41 - 1

/-- The reset state of a word with an anchor (R101, R160). -/
def LWord.zero (a : BitVec 12) : LWord := ⟨0, a, false, false, false, false, false, false, 0⟩

/-- The anchor as an integer. -/
def anchorInt (a : BitVec 12) : Int := a.toInt

/-- The sum of two words with the same anchor (R124). -/
def LWord.add (x y : LWord) : LWord :=
  let t := Machine.sat termsMax (x.terms + y.terms)
  { val := x.val + y.val, anchor := x.anchor, nan := x.nan || y.nan, pinf := x.pinf || y.pinf, ninf := x.ninf || y.ninf,
    sat := x.sat || y.sat, rnd := x.rnd || y.rnd, hx := x.hx || y.hx || decide (2 ^ 40 < t), terms := t }

/-- An input word is added as it stands, or as a NaN term where its anchor is another (R125). -/
def LWord.addInput (x y : LWord) : LWord :=
  if y.anchor = x.anchor then x.add y else x.add { LWord.zero x.anchor with nan := true, terms := 1 }

/-- The value of a word (R103). -/
def LWord.value (x : LWord) : Val :=
  if x.nan || x.hx || (x.pinf && x.ninf) then .nan
  else if x.pinf then .inf false
  else if x.ninf then .inf true
  else .fin (x.val.toInt < 0) x.val.toInt.natAbs 1 x.anchor.toInt

/-- What placing one term does: the word it adds, and the trap it raises (0 none, 1 overflow, 2 NaN). -/
structure Placed where
  word : LWord
  trap : Nat := 0
deriving DecidableEq, Repr

/-- Place one product or term (R111, R112, R128). `u` is its dither draw. -/
def place (a : BitVec 12) (prnd : Nat) (ovfTrap nanTrap : Bool) (u : Nat) (p : Val) : Placed :=
  let z := { LWord.zero a with terms := 1 }
  match p with
  | .nan => ⟨{ z with nan := true }, if nanTrap then 2 else 0⟩
  | .inf n => ⟨if n then { z with ninf := true } else { z with pinf := true }, 0⟩
  | .fin neg num den e =>
    let (n, d) := scaleFrac num den (e - a.toInt)
    let sg (m : Nat) : BitVec 192 := if neg then -(BitVec.ofNat 192 m) else BitVec.ofNat 192 m
    if 2 ^ 151 * d ≤ n then ⟨{ z with val := sg (2 ^ 151 - 1), sat := true }, if ovfTrap then 1 else 0⟩
    else
      let q := n / d
      let r := if roundUp prnd false q (n % d) d u then q + 1 else q
      ⟨{ z with val := sg r, rnd := n % d ≠ 0 }, 0⟩

/-- The carried residue of a term, as the residue path forms it beside the term (R138): the product `img` of the residues of its factors'
significands is rotated by the shift, and the residue of the rounding correction is added; a saturated term enters as the value it places, a
special term as 0. -/
def termResidue (a : BitVec 12) (prnd u img : Nat) (p : Val) : Nat :=
  match p with
  | .fin neg num den e =>
    let (n, d) := scaleFrac num den (e - a.toInt)
    let sh := ((e - a.toInt) % 7).toNat
    let mag :=
      if 2 ^ 151 * d ≤ n then (2 ^ 151 - 1) % 127
      else if d = 1 then img * 2 ^ sh % 127
      else
        let up := if roundUp prnd false (n / d) (n % d) d u then 1 else 0
        (img * 2 ^ sh + up + 127 * 2 ^ sh - n % d % 127 * 2 ^ sh) % 127
    if neg then (127 - mag) % 127 else mag
  | _ => 0

/-- The residue of a value's significand. -/
def Val.sig : Val → Nat
  | .fin _ n _ _ => n % 127
  | _ => 0

/-- The residue that the checker computes from a word's bits (R139). -/
def residue (v : BitVec 192) : Nat :=
  let n := v.toNat
  let s := (List.range 27).foldl (fun acc i => acc + bits n (7 * i) 7) 0 + bits n 189 3
  (s + 127 * 8 - (if bit n 191 then 8 else 0)) % 127

/-- The residue of a placed integer (R138): what a word that is read back carries. -/
def carried (v : BitVec 192) : Nat := (v.toInt % 127).toNat

/-- The exact output value X of R134, with the scale product S × 2^x. -/
def outValue (w : LWord) (sc : Val) : Val := Val.mul w.value sc

/-- A word as its 256 bits in memory (R101). -/
def LWord.bits (x : LWord) : Nat :=
  x.val.toNat + x.anchor.toNat <<< 192 + b2n x.nan <<< 208 + b2n x.pinf <<< 209 + b2n x.ninf <<< 210 + b2n x.sat <<< 211
    + b2n x.rnd <<< 212 + b2n x.hx <<< 213 + (Machine.sat termsMax x.terms) <<< 215

/-- A word read from its 256 bits. -/
def LWord.ofBits (n : Nat) : LWord :=
  { val := BitVec.ofNat 192 n, anchor := BitVec.ofNat 12 (n >>> 192), nan := bit n 208, pinf := bit n 209, ninf := bit n 210,
    sat := bit n 211, rnd := bit n 212, hx := bit n 213, terms := Machine.bits n 215 41 }

/-- What an output word adds to the report (R133). -/
def repWord (w : LWord) : Rep :=
  let v := w.value
  { bits := (if w.sat then 1 else 0) + (if w.rnd then 2 else 0) + (if v = .nan then 4 else 0)
      + (match v with | .inf _ => 8 | _ => 0) + (if w.hx then 16 else 0) }

/-- The poisoned value of an element of a format (R129). R129's table has no row for the INT formats: 0 (log entry 121). -/
def poisonEnc (code : Nat) (a : BitVec 12) : Nat :=
  if code = 0x20 then LWord.bits { LWord.zero a with nan := true }
  else match fmtOf code with | some f => canonNan f | none => 0

/-! ### Deriving the anchor (R107, R108) -/

/-- q and h of an operand format (R108). -/
def fmtQH (code : Nat) : Int × Int :=
  match code with
  | 1 => (-1, 3) | 2 => (-3, 3) | 3 => (-4, 5) | 4 => (-9, 9) | 5 => (-16, 16) | 9 => (-24, 16) | 0x10 => (0, 4)
  | 0x11 => (0, 8) | _ => (0, 1)

/-- A block scale as σ and exponent (R107); none for the NaN scale (R69, R70). -/
def scaleParts (sfmt b : Nat) : Option (Nat × Int) :=
  if sfmt = 0 then (if b = 0xFF then none else some (1, (b : Int) - 127))
  else if 0x7F ≤ b then none
  else if b / 8 = 0 then some (b, -9) else some (8 + b % 8, (b / 8 : Int) - 10)

/-- A block scale's value. -/
def scaleVal (sfmt b : Nat) : Val :=
  match scaleParts sfmt b with
  | none => .nan
  | some (m, e) => .fin false m 1 e

/-- The anchor of R108 from the operand formats, whether each has S-E4M3 scales, and the extreme exponent sums. -/
def deriveAnchor (fa fb : Nat) (ca cb : Bool) (emin emax : Int) : Int :=
  let l := (fmtQH fa).1 + (fmtQH fb).1 + emin
  let h := (fmtQH fa).2 + (fmtQH fb).2 + (if ca then 4 else 0) + (if cb then 4 else 0) + emax
  max l (h - 151)

/-! ### The trimmed-ledger encoding (R373, R374) -/

/-- The flags of a word in the order of ctl[7:2]. -/
def tleFlags (w : LWord) : Nat := b2n w.nan + 2 * b2n w.pinf + 4 * b2n w.ninf + 8 * b2n w.sat + 16 * b2n w.rnd + 32 * b2n w.hx

/-- The least width code for a value: the range of 8 × wc signed bits holds it. -/
def tleWidth (v : BitVec 192) : Nat :=
  ((List.range 25).find? fun k =>
    if k = 0 then v = 0 else decide (-(2 ^ (8 * k - 1) : Int) ≤ v.toInt) && decide (v.toInt < 2 ^ (8 * k - 1))).getD 24

/-- Encode a block of the existing positions (at most 16) (R374). -/
def tleEncode (ws : List LWord) : List Byte :=
  let wc := (ws.map fun w => tleWidth w.val).foldl max 0
  let w0 := ws.headD (LWord.zero 0)
  let fx := ws.any fun w => tleFlags w ≠ tleFlags w0
  let tx := ws.any fun w => w.terms ≠ w0.terms
  let pos := (List.range 16).map fun j => ws[j]?
  let ctl := b2n fx + 2 * b2n tx + (if fx then 0 else 4 * tleFlags w0)
  [BitVec.ofNat 8 wc, BitVec.ofNat 8 ctl] ++ natLe 6 (if tx then 0 else w0.terms)
    ++ pos.flatMap (fun o => natLe wc (match o with | some w => w.val.toNat | none => 0))
    ++ (if fx then pos.map (fun o => BitVec.ofNat 8 (match o with | some w => tleFlags w | none => 0)) else [])
    ++ (if tx then pos.flatMap (fun o => natLe 6 (match o with | some w => w.terms | none => 0)) else [])

/-- The length in bytes of the block at the head of a list. -/
def tleLen (l : List Byte) : Nat :=
  let wc := (l.headD 0).toNat
  let ctl := (l.getD 1 0).toNat
  8 + 16 * wc + (if bit ctl 0 then 16 else 0) + (if bit ctl 1 then 96 else 0)

/-- Decode the first n positions of a block with an anchor (R374). -/
def tleDecode (a : BitVec 12) (n : Nat) (l : List Byte) : List LWord :=
  let wc := (l.headD 0).toNat
  let ctl := (l.getD 1 0).toNat
  let fx := bit ctl 0
  let tx := bit ctl 1
  let ft := 8 + 16 * wc
  let tt := ft + (if fx then 16 else 0)
  (List.range n).map fun j =>
    let raw := leNat (slice l (8 + j * wc) wc)
    let f := if fx then (l.getD (ft + j) 0).toNat else ctl / 4
    { val := BitVec.ofInt 192 (if wc = 0 then 0 else sgn (8 * wc) raw), anchor := a, nan := bit f 0, pinf := bit f 1,
      ninf := bit f 2, sat := bit f 3, rnd := bit f 4, hx := bit f 5,
      terms := if tx then leNat (slice l (tt + 6 * j) 6) else leNat (slice l 2 6) }

end Sys2Proof.Machine
end

