-- ==== Sys2Proof/Config.lean ====
section
/-! DEFINITION. What an implementation or a module fixes and the spec leaves open: constants without a body, so that
nothing can be proved of their values. -/

namespace Sys2Proof.Config

/-- A value the spec does not state, one for each count of `State.free` (log entry 7). -/
opaque freeValue : Nat → BitVec 64

/-- The draw of a stochastic rounding of a vector operation of a tile program, at its job's and its bundle's coordinates: the seed, the tensor id,
the numerics level, the job's b, m0 and n0, the tile cycle count and the lane (R114 gives a vector register no coordinates, log entry 37). -/
opaque vecDither : List Nat → BitVec 32

/-- The upper lanes that a VCVT from FP64 to FP32 leaves, from its source register (log entry 37). -/
opaque vcvtUpper : BitVec 2048 → Nat → BitVec 32

/-- The key of a TOPK element that FP32 does not hold exactly, from its format and its encoding (R178, log entry 93). -/
opaque topKey : Nat → Nat → BitVec 32

/-- The ledger word that a conversion of a floating-point element gives in ALLGATHER and DISPATCH, from the element's format and encoding and the
command's numeric control (log entry 103). -/
opaque ledgerEnc : Nat → Nat → Nat → BitVec 256

/-- An output element under a numerics level that this spec does not define, from the level, the record, the memory it reads and the element's bit
address (R2, R4, log entry 104). -/
opaque levelOut : Nat → List Byte → List (Nat × Byte) → Nat → Nat

/-- What a TRACE records of an output under such a level, as for levelOut: 0 its ledger word, 1 + k the flags of term k in bits 4 to 0 and its placed
integer above them (R390, log entry 104). -/
opaque levelTrace : Nat → List Byte → List (Nat × Byte) → Nat → Nat → Nat

/-- The numeric report of a command under such a level (log entry 104). -/
opaque levelRep : Nat → List Byte → List (Nat × Byte) → BitVec 64

/-- Cielm's PCI-SIG Vendor ID (R567, R577). -/
opaque vendorId : BitVec 16

/-- The module's hardware revision code (R1, R577). -/
opaque hwRev : BitVec 16

/-- The module's serial number (R567, R581). -/
opaque serial : BitVec 64

/-- The digest of the boot ROM's firmware-signing key in slot 0 or 1 (R541), 48 bytes as one number, first byte lowest. -/
opaque romKeyDigest : Bool → BitVec 384

/-- The SHA-384 measurement of the boot ROM (R558, index 1). -/
opaque romMeasurement : BitVec 384

/-- The certificate chain prefix of a slot (Cielm root, device CA and the device's own certificates, R539), as a number and its
length in bytes. -/
opaque certBytes : Nat → Nat → Byte

/-- The length in bytes of the certificate chain of a slot (R539). -/
opaque certLen : Nat → Nat

/-- The bank of a pseudo-channel block of a stack (R288: the device chooses it). -/
opaque hbmBank : Nat → Nat → Nat → BitVec 6

/-- The row of a pseudo-channel block of a stack (R288). -/
opaque hbmRow : Nat → Nat → Nat → BitVec 18

/-- Bytes whose layout the spec does not state, from the values they hold (log entry 11): 0 link-up payload (R350), 1 lane-map payload
(R341), 2 the message of the parameter digest (R371). -/
opaque layout : Nat → List Nat → List Byte

/-- The CMD_STRM_CFG value of a stream of an escorted node, from the node and the stream (log entry 86). -/
opaque strmAttrs : Nat → Nat → BitVec 64

/-- The root secret that the security engine reconstructs from the PUF and the helper data (R537, log entry 12). -/
opaque pufRoot : List Byte → BitVec 384

end Sys2Proof.Config
end

