-- ==== Sys2Proof/Machine/Ops.lean ====
section
/-! DEFINITION. The named operations over memory, interrupts, events and the parts in service, that every family
shares. -/

namespace Sys2Proof.Machine

/-! ### Regions of the address space (R272 to R276, R288, R465, R523) -/

/-- Base of Serai region i in 2 MiB units (R274, R523). -/
def rgnBase (c : Conf) (i : Nat) : Nat :=
  let g := 1024 - 32 - c.stg - c.wsp - 3 * c.ret
  match i with
  | 0 => 0 | 1 => g | 2 => g + c.stg | 3 => g + c.stg + c.wsp | 4 => g + c.stg + c.wsp + c.ret | 5 => 992 | _ => 0

/-- Size of Serai region i in 2 MiB units. -/
def rgnSize (c : Conf) (i : Nat) : Nat :=
  match i with
  | 0 => 1024 - 32 - c.stg - c.wsp - 3 * c.ret | 1 => c.stg | 2 => c.wsp | 3 => c.ret | 4 => 2 * c.ret | 5 => 32 | _ => 0

/-- 2 MiB. -/
abbrev page : Nat := 0x200000

/-- The Serai region of an address. -/
def rgnOf (c : Conf) (a : Nat) : Nat :=
  let u := a / page
  if u < rgnBase c 1 then 0 else if u < rgnBase c 2 then 1 else if u < rgnBase c 3 then 2
  else if u < rgnBase c 4 then 3 else if u < 992 then 4 else 5

/-- Whether a range lies wholly in the general region of the Serai. -/
def inGeneral (c : Conf) (a n : Nat) : Bool := a + n ≤ rgnBase c 1 * page

/-- The bytes of each stack below the reserve (R465), which an image without a JOB record leaves at its default (log entry 30). -/
def stackFree (c : Conf) : Nat := stackBytes - stackBytes / 16 * c.rsv

/-- Whether a range lies wholly in HBM and reaches no stack's reserve (R465, log entry 30). -/
def inHbmFree (c : Conf) (a n : Nat) : Bool :=
  inHbm a n && (n == 0 ||
    ((a - hbmBase) / stackBytes == (a + n - 1 - hbmBase) / stackBytes && (a + n - 1 - hbmBase) % stackBytes < stackFree c))

/-- A range wholly in the Serai region or wholly in the HBM region (R207). -/
def oneRegion (c : Conf) (a n : Nat) : Bool := inSerai a n || inHbmFree c a n

/-- A range that a command or a remote access may name when it runs (R275, R357). -/
def openRange (c : Conf) (a n : Nat) : Bool := inGeneral c a n || inHbmFree c a n

/-- The Serai map of R272: slice, slice-local address, bank and row. -/
def seraiMap (a : Nat) : Nat × Nat × Nat × Nat :=
  let la := (bits a 14 17) <<< 12 ||| bits a 0 12
  (bits a 12 2 ^^^ bits a 22 2, la, bits la 6 8 ^^^ bits la 14 8, bits la 14 15)

/-- The HBM map of R288: stack, pseudo-channel, pseudo-channel address. -/
def hbmMap (x : Nat) : Nat × Nat × Nat :=
  let y := x - hbmBase
  let sa := y % stackBytes
  (y / stackBytes, bits sa 8 5 ^^^ bits sa 13 5, (bits sa 13 23) <<< 8 ||| bits sa 0 8)

/-- The address of a pseudo-channel address: the inverse of `hbmMap` (R288). -/
def hbmAddr (k pc pca : Nat) : Nat :=
  hbmBase + k * stackBytes + (pca / 256 * 0x2000 + (pc ^^^ (pca / 256 % 32)) * 256 + pca % 256)

/-- The 1 KiB HBM row that holds word w: its stack, and its pseudo-channel and block. -/
def hbmRowOf (w : Nat) : Nat × Nat := ((hbmMap (w * 32)).1, (hbmMap (w * 32)).2.1 * 0x1000000 + (hbmMap (w * 32)).2.2 / 1024)

/-- The number of a row among those of all stacks. -/
def rowNo (k r : Nat) : Nat := k * 0x20000000 + r

/-- The first device-internal address of a remap slot (R274, R303): 1,024 slots of 1 KiB for each stack (log entry 115). -/
def slotBase (i : Nat) : Nat := 992 * 0x200000 + 1024 * i

/-- The remap slot that holds word w of HBM (R302). -/
def Mem.slotOf (m : Mem) (w : Nat) : Option Nat :=
  if m.slots = [] || w < hbmBase / 32 then none else (m.slots.find? fun x => x.1 = rowNo (hbmRowOf w).1 (hbmRowOf w).2).map Prod.snd

/-- The word of the Serai or of HBM in which word w lies: its own, or one of its row's remap slot. -/
def Mem.place (m : Mem) (w : Nat) : Nat :=
  match m.slotOf w with | some i => (slotBase i + (hbmMap (w * 32)).2.2 % 1024) / 32 | none => w

/-- The symbol code of HBM protects word w; else the Serai's does (R290). -/
def Mem.hbmAt (m : Mem) (w : Nat) : Bool := 0x80000000 / 32 ≤ w && (m.slotOf w).isNone

/-- The words of a row in rising order of their pseudo-channel addresses. -/
def rowWords (k r : Nat) : List Nat :=
  (List.range 32).map fun i => hbmAddr k (r / 0x1000000) (r % 0x1000000 * 1024 + 32 * i) / 32

/-- The word of HBM that a word of a remap slot holds, if the slot is in use. -/
def Mem.unplace (m : Mem) (w : Nat) : Option Nat :=
  if m.slots = [] then none
  else (m.slots.find? fun x => slotBase x.2 / 32 ≤ w && w < slotBase x.2 / 32 + 32).bind fun x =>
    (rowWords (x.1 / 0x20000000) (x.1 % 0x20000000))[w - slotBase x.2 / 32]?

/-- A stack of HBM. -/
def stackOf (s : State) (k : Nat) : Stack := tget s.hbm.stackTbl k {}

/-- Whether an address was lost with an L6 part (R50, R297): its stack or, outside the retained region and the second copies that a rebuild has put
into the reserve (R278), its slice. -/
def addrLost (s : State) (a : Nat) : Bool :=
  if a < 0x80000000 then !bit s.ser.up.toNat (seraiMap a).1 && rgnOf s.cfg.conf a ≠ 3 && (rgnOf s.cfg.conf a ≠ 4 || s.ser.rebuild)
  else if inHbm a 1 then
    (stackOf s (hbmMap a).1).lost
      || (match s.mem.slotOf (a / 32) with | some i => !bit s.ser.up.toNat (seraiMap (slotBase i)).1 | none => false)
  else false

/-! ### Counters of traffic (R304, R306) -/

/-- Bytes count in a class of a slice. -/
def addBw (s : State) (slice cls n : Nat) : State :=
  if n = 0 then s
  else
    let k := 8 * slice + cls
    { s with ser := { s.ser with bw := tput s.ser.bw k ((tget s.ser.bw k 0 + n) % 2 ^ 64) 0 } }

/-- Bytes read from a stack, or written to it. -/
def addStk (s : State) (k : Nat) (wr : Bool) (n : Nat) : State :=
  if n = 0 then s
  else { s with hbm := { s.hbm with stackTbl := tmod s.hbm.stackTbl k {} fun x =>
    if wr then { x with bwWr := (x.bwWr + n) % 2 ^ 64 } else { x with bwRd := (x.bwRd + n) % 2 ^ 64 } } }

/-- An access of a class to a range of one tier. -/
def tally (s : State) (cls : Nat) (wr : Bool) (a n : Nat) : State :=
  if n = 0 then s
  else if a < 0x80000000 then
    (List.range ((a + n - 1) / 4096 - a / 4096 + 1)).foldl (fun s i =>
      let lo := max a ((a / 4096 + i) * 4096)
      let hi := min (a + n) ((a / 4096 + i + 1) * 4096)
      addBw s (seraiMap lo).1 cls (hi - lo)) s
  else if inHbm a n then addStk s (hbmMap a).1 wr n
  else s

/-- Accesses of a class to elements: (bit address, width, …). -/
def tallyBits (s : State) (cls : Nat) (wr : Bool) (l : List (Nat × Nat × Nat)) : State :=
  let sum (f : Nat → Bool) : Nat := ((l.filter fun x => f (x.1 / 8)).map (·.2.1)).sum / 8
  let s := (List.range 4).foldl (fun s k => addBw s k cls (sum fun a => a < 0x80000000 && (seraiMap a).1 = k)) s
  if l.all fun x => x.1 / 8 < 0x80000000 then s
  else (List.range 8).foldl (fun s k => addStk s k wr (sum fun a => inHbm a 1 && (hbmMap a).1 = k)) s

/-- Bytes that pass through the Serai at a place that the spec does not give: which slice counts them is a free value (log entry 46). -/
def addSome (s : State) (cls n : Nat) : State :=
  if n = 0 then s else addBw { s with free := s.free + 1 } ((Config.freeValue s.free).toNat % 4) cls n

/-- Bytes read from a stack, or written to it, where the spec does not say which: a free value (log entry 46). -/
def addSomeStk (s : State) (wr : Bool) (n : Nat) : State :=
  addStk { s with free := s.free + 1 } ((Config.freeValue s.free).toNat % 8) wr n

/-! ### The symbol code (R290 to R293) -/

/-- Multiplication in GF(16) on x^4 + x + 1. -/
def gfMul (a b : Nat) : Nat :=
  let x := (if bit b 0 then a else 0) ^^^ (if bit b 1 then a <<< 1 else 0) ^^^ (if bit b 2 then a <<< 2 else 0)
    ^^^ (if bit b 3 then a <<< 3 else 0)
  let x := if bit x 6 then x ^^^ (0x13 <<< 2) else x
  let x := if bit x 5 then x ^^^ (0x13 <<< 1) else x
  if bit x 4 then x ^^^ 0x13 else x

/-- f(a, b) = a² + ab + λb² with λ = α³ (R291). -/
def gfF (a b : Nat) : Nat := gfMul a a ^^^ gfMul a b ^^^ gfMul 8 (gfMul b b)

/-- The column of symbol position i (R291). -/
def column (i : Nat) : Nat × Nat × Nat × Nat :=
  if i < 32 then (1, i % 16, 2 + i / 16, gfF (i % 16) (2 + i / 16))
  else if i = 32 then (0, 0, 0, 1) else if i = 33 then (1, 0, 0, 0) else if i = 34 then (1, 1, 0, 1) else (1, 0, 1, 8)

/-- The syndrome of a word of 36 symbols (R291). -/
def syndrome (r : List Nat) : Nat × Nat × Nat × Nat :=
  (r.zipIdx).foldl (fun acc x =>
    let c := column x.2
    (acc.1 ^^^ gfMul x.1 c.1, acc.2.1 ^^^ gfMul x.1 c.2.1, acc.2.2.1 ^^^ gfMul x.1 c.2.2.1,
      acc.2.2.2 ^^^ gfMul x.1 c.2.2.2)) (0, 0, 0, 0)

/-- How a codeword decodes (R292): clean, one symbol corrected, or uncorrectable. -/
inductive Dec where
  | clean | fix (pos val : Nat) | bad
deriving DecidableEq, Repr

/-- Decode a codeword from its syndrome (R292). -/
def decodeSyn (s : Nat × Nat × Nat × Nat) : Dec :=
  if s = (0, 0, 0, 0) then .clean
  else if s.1 ≠ 0 then
    match (List.range 36).find? fun i =>
      let c := column i
      c.1 = 1 && gfMul s.1 c.2.1 = s.2.1 && gfMul s.1 c.2.2.1 = s.2.2.1 && gfMul s.1 c.2.2.2 = s.2.2.2 with
    | some i => .fix i s.1
    | none => .bad
  else if s.2.1 = 0 ∧ s.2.2.1 = 0 then .fix 32 s.2.2.2 else .bad

/-- The bit positions of symbol i of codeword h in the 288-bit word (R290). -/
def symBits (hbm : Bool) (h i : Nat) : List Nat :=
  if hbm then
    if i < 32 then (List.range 4).map fun b => 32 * (4 * h + b) + i
    else (List.range 4).map fun b => 256 + 4 * (4 * h + b) + (i - 32)
  else if i < 32 then (List.range 4).map fun b => 8 * i + 4 * h + b
  else (List.range 4).map fun b => 256 + 16 * h + 4 * (i - 32) + b

/-- The symbols of codeword h of a 288-bit word. -/
def symsOf (hbm : Bool) (h e : Nat) : List Nat :=
  (List.range 36).map fun i => ((symBits hbm h i).zipIdx).foldl (fun a x => a + (b2n (bit e x.1)) <<< x.2) 0

/-- A symbol as a pattern of the 288-bit word. -/
def symPat (hbm : Bool) (h i v : Nat) : Nat :=
  ((symBits hbm h i).zipIdx).foldl (fun a x => if bit v x.2 then a ^^^ (1 <<< x.1) else a) 0

/-- The pattern of a poisoned word against a valid one (R293). -/
def poisonPat (hbm : Bool) : BitVec 288 :=
  BitVec.ofNat 288 ((List.range 2).foldl (fun a h => a ^^^ symPat hbm h 32 9 ^^^ symPat hbm h 34 1 ^^^ symPat hbm h 35 1) 0)

/-- The check symbols 32 to 35 of 32 data symbols (R291). -/
def encodeSyms (d : List Nat) : List Nat :=
  let s := syndrome d
  [s.2.2.2 ^^^ s.2.1 ^^^ gfMul 8 s.2.2.1, s.1 ^^^ s.2.1 ^^^ s.2.2.1, s.2.1, s.2.2.1]

/-- Decode a word's error pattern: none where uncorrectable, else the pattern left after the correction (R292). -/
def decodeWord (hbm : Bool) (e : BitVec 288) : Option (BitVec 288) :=
  let f (h : Nat) : Option Nat := match decodeSyn (syndrome (symsOf hbm h e.toNat)) with
    | .clean => some 0
    | .fix i v => some (symPat hbm h i v)
    | .bad => none
  match f 0, f 1 with
  | some a, some b => some (e ^^^ BitVec.ofNat 288 (a ^^^ b))
  | _, _ => none

/-- A pattern of one tier as the same symbols lie in the other. -/
def relay (hbm : Bool) (e : BitVec 288) : BitVec 288 :=
  BitVec.ofNat 288 ((List.range 2).foldl (fun a h =>
    ((symsOf (!hbm) h e.toNat).zipIdx).foldl (fun a x => a ^^^ symPat hbm h x.2 x.1) a) 0)

/-! ### Interrupts (R574, R575) -/

/-- The MSI-X table's reset value: every vector masked. The table is kept as 64-bit words. -/
def msixDflt (i : Nat) : W64 := if i % 2 = 1 then 0x100000000 else 0

/-- A vector is masked. -/
def vecMasked (s : State) (v : Nat) : Bool := bit (tget s.hif.msix (2 * v + 1) (msixDflt 1)).toNat 32

/-- The device can master host memory (R50, R504, R574). -/
def hostReady (s : State) : Bool := s.hif.bme && s.hif.up && s.ras.io0

/-- A source fires vector v (R575): a message, or the pending bit where the vector cannot be sent. -/
def fire (s : State) (v : Nat) : State :=
  if s.hif.msixEn && hostReady s && !s.hif.fmask && !vecMasked s v then { s with out := { s.out with msi := s.out.msi ++ [v] } }
  else if s.hif.pba.contains v then s
  else { s with hif := { s.hif with pba := v :: s.hif.pba } }

/-- Bits of HIF_EVT_STAT are set; the vector fires for each that goes from 0 to 1 while enabled (R577). -/
def hifEvent (s : State) (i : Nat) : State :=
  let was := bit s.hif.evt.toNat i
  let s := { s with hif := { s.hif with evt := s.hif.evt ||| BitVec.ofNat 4 (1 <<< i) } }
  if was || !bit s.hif.evtCfg.toNat 11 then s else fire s (bits s.hif.evtCfg.toNat 0 11)

/-- HIF_GEN advances (R577, R580). -/
def bumpGen (s : State) : State := hifEvent { s with hif := { s.hif with gen := s.hif.gen + 1 } } 3

/-- Change the device state (R507) and report it (R577). -/
def setState (s : State) (d : DState) : State :=
  if s.cfg.st = d then s else hifEvent { s with cfg := { s.cfg with st := d } } 0

/-- The device masters a write to host memory (R574). -/
def hostWrite (s : State) (a : Nat) (d : List Byte) : State := { s with out := { s.out with host := s.out.host ++ [(a, d)] } }

/-- Register writes are taken (R509): in HOLD none but PWR_CAP_USER, which has its own rule. -/
def inHold (s : State) : Bool := s.cfg.st = .hold

/-- Records are consumed (R194, R513). -/
def consuming (s : State) : Bool := s.cfg.st = .service || s.cfg.st = .maintenance

/-- Retained state may be written: no copy of it is being rebuilt (R42, R278). -/
def ready (s : State) : Bool := consuming s && !s.ser.rebuild

/-- The device moves to HOLD (R51): no tile job is issued, those in flight and the held ones are abandoned. -/
def enterHold (s : State) : State :=
  let s := setState s .hold
  let til := s.til
  { s with til := { til with srv := [], trn := [], tiles := tmap til.tiles {} fun x => { x with job := none, reserve := none, granted := false } },
           ras := { s.ras with held := [] } }

/-! ### Bytes of memory -/

/-- The byte stored at an address (0 where nothing is listed, R512). -/
def rdB (m : Mem) (a : Nat) : Byte := tget m.cells a 0

/-- n bytes from an address. -/
def rd (m : Mem) (a n : Nat) : List Byte := (List.range n).map fun i => rdB m (a + i)

/-- Store bytes, nothing else. -/
def wrRaw (m : Mem) (a : Nat) : List Byte → Mem
  | [] => m
  | b :: r => wrRaw { m with cells := tput m.cells a b 0 } (a + 1) r

/-- The word index of an address in the error table. -/
def wix (a : Nat) : Nat := a / 32

/-- Set a word's error pattern. -/
def setErr (m : Mem) (w : Nat) (e : BitVec 288) : Mem := { m with err := tput m.err w e 0 }

/-- Whether word w is uncorrectable or poisoned. -/
def badWord (m : Mem) (w : Nat) : Bool :=
  match tget m.err w 0 with
  | 0 => false
  | e => (decodeWord (m.hbmAt w) e).isNone

/-- The words that a range touches. -/
def wordsOf (a n : Nat) : List Nat := if n = 0 then [] else (List.range ((a + n - 1) / 32 - a / 32 + 1)).map (a / 32 + ·)

/-- The words of a range that are covered only in part. -/
def partWords (a n : Nat) : List Nat := (wordsOf a n).filter fun w => w * 32 < a || a + n < w * 32 + 32

/-- Words with a listed error in a range. -/
def errWords (m : Mem) (a n : Nat) : List Nat :=
  if n = 0 then [] else (m.err.map Prod.fst).filter fun w => a / 32 ≤ w && w ≤ (a + n - 1) / 32

/-- The first address at which a range is uncorrectable (R292, R293). -/
def firstBad (m : Mem) (a n : Nat) : Option Nat := ((errWords m a n).find? (badWord m)).map (· * 32)

/-- A protected page (R463) and its number. -/
def pageOf (c : Conf) (a : Nat) : Option Nat :=
  match c.job with
  | none => none
  | some j => (j.ranges.foldl (fun (acc : Nat × Option Nat) r =>
      (acc.1 + r.2, if acc.2.isSome then acc.2 else if r.1 ≤ a && a < r.1 + r.2 * page then some (acc.1 + (a - r.1) / page) else none))
      (0, none)).2

/-- The base address of protected page number p. -/
def pageBase (j : JobRec) (p : Nat) : Nat :=
  (j.ranges.foldl (fun (acc : Nat × Nat) r =>
    (acc.1 + r.2, if acc.1 ≤ p ∧ p < acc.1 + r.2 then r.1 + (p - acc.1) * page else acc.2)) (0, 0)).2

/-- How many pages a job protects. -/
def pageCount (j : JobRec) : Nat := (j.ranges.map Prod.snd).sum

/-- The listed cells of a page. -/
def pageCells (m : Mem) (base : Nat) : List (Nat × Byte) := m.cells.filter fun e => base ≤ e.1 && e.1 < base + page

/-- The listed error patterns of a page's words. -/
def pageErrs (m : Mem) (base : Nat) : List (Nat × BitVec 288) := m.err.filter fun e => base / 32 ≤ e.1 && e.1 < (base + page) / 32

/-- A snapshot holds a copy of page p. -/
def Snap.has (sn : Snap) (p : Nat) : Bool := (sn.copies.any (·.1 = p)) || sn.nil.contains p

/-- A snapshot takes a copy of page p, at its base, where it holds none. -/
def Snap.copy (sn : Snap) (m : Mem) (p base : Nat) : Snap :=
  let c := (pageCells m base, pageErrs m base)
  if sn.has p then sn else if c = ([], []) then { sn with nil := p :: sn.nil } else { sn with copies := tput sn.copies p c ([], []) }

/-- Read bits at a bit address. -/
def readBits (m : Mem) (ba w : Nat) : Nat :=
  if w = 0 then 0 else bits (leNat (rd m (ba / 8) ((ba + w - 1) / 8 - ba / 8 + 1))) (ba % 8) w

/-- Remember an error found in a row (R294, R301): 0 corrected, 1 uncorrectable. -/
def noteRow (s : State) (w kind : Nat) : State :=
  let (k, r) := hbmRowOf w
  let t := s.ras.sec
  { s with hbm := { s.hbm with stackTbl := tmod s.hbm.stackTbl k {} fun x => { x with rowErr := x.rowErr ++ [(r, t, kind)] } } }

/-! ### Events (R415, R416, R446, R505) -/

/-- Power-on hours, from the device's own seconds. -/
def poh (s : State) : Nat := s.ras.sec / 3600

/-- Record a fault event (R415) and fire RAS_IRQ where its verdict or action is not 0 (R446). -/
def raise (s : State) (det level verdict action loc : Nat) (j : Option (Nat × Nat × Nat × W64) := none) : State :=
  let (st, tag, job, seq) := j.getD (0, 0, 0, 0)
  let e : Event := ⟨s.ras.next, det, level, verdict, action, loc, poh s, st, tag, job, seq⟩
  let ev := s.ras.events ++ [e]
  let ev := if 4096 < ev.length then ev.drop 1 else ev
  let s := { s with ras := { s.ras with events := ev, next := (s.ras.next + 1) % 2 ^ 32 } }
  if (verdict ≠ 0 ∨ action ≠ 0) ∧ bit s.ras.irq.toNat 11 then fire s (bits s.ras.irq.toNat 0 11) else s

/-- Record an event that ends in sparing, retirement or removal, in the log and, whole, in the fault history (R31, R415, R416). -/
def raiseKept (s : State) (det level verdict action loc : Nat) (j : Option (Nat × Nat × Nat × W64) := none) : State :=
  let t := raise s det level verdict action loc j
  { t with flash := { t.flash with kept := t.flash.kept ++ t.ras.events.getLast?.toList } }

/-- A targeted self-test that no row of the table reports (R423): whether it passes, and down to which level below the element's it localises a
failure, are free values (log entry 128). -/
def selfTest (s : State) (det level loc : Nat) : State :=
  let s := freshFree s
  let v := (Config.freeValue s.free).toNat
  if v % 2 = 0 then raise s det level 6 0 loc else raise s det (1 + v / 2 % level) 5 0 loc

/-- Write an entry to the fault history of the flash (R416, R505, R532, R563): status, value, power-on hours. -/
def history (s : State) (st : Status) (v : Nat) : State :=
  { s with flash := { s.flash with hist := s.flash.hist ++ [(st, v, poh s)] } }

/-- A power event: PWR_LAST and the fault history (R505, R506). -/
def powerEvent (s : State) (st : Status) (v : Nat) : State :=
  let s := history s st v
  { s with flash := { s.flash with pwrLast := (st, v, poh s) } }

/-- The detection of an uncorrectable word (R413, R415): of an HBM word at its row, of a Serai word at its slice and bank; the retained region has a
point of its own. The action is 11 where a command fails by it. The levels are the model's choice (log entry 124). -/
def noteUe (s : State) (w action : Nat) (j : Option (Nat × Nat × Nat × W64) := none) : State :=
  if s.mem.hbmAt w then
    let (k, r) := hbmRowOf w
    raise s 0x12 3 0 action (k * 0x1000000 + (Config.hbmRow k (r / 0x1000000) (r % 0x1000000)).toNat) j
  else
    let m := seraiMap (s.mem.place w * 32)
    raise s (if (rgnOf s.cfg.conf (w * 32) = 3 || rgnOf s.cfg.conf (w * 32) = 4) && w < 0x80000000 / 32 then 0x11 else 0x10) 2 0 action (256 * m.1 + m.2.2.1) j

/-! ### Reads and stores -/

/-- Count a corrected error of a word (R294). -/
def countCe (s : State) (w : Nat) : State :=
  if !s.mem.hbmAt w then { s with ser := { s.ser with ce := sat 0xFFFFFFFF (s.ser.ce + 1) } }
  else
    let s := noteRow s w 0
    { s with hbm := { s.hbm with stackTbl := tmod s.hbm.stackTbl (hbmMap (w * 32)).1 {} fun k => { k with ce := sat 0xFFFFFFFF (k.ce + 1) } } }

/-- Count an uncorrectable or poisoned word met (R305, R306). -/
def countUe (s : State) (w : Nat) : State :=
  let a := w * 32
  if !s.mem.hbmAt w then { s with ser := { s.ser with ue := sat 0xFFFF (s.ser.ue + 1) } }
  else
    let s := if tget s.mem.err w 0 = poisonPat true then s else noteRow s w 1
    { s with hbm := { s.hbm with stackTbl := tmod s.hbm.stackTbl (hbmMap a).1 {} fun k => { k with ue := sat 0xFFFF (k.ue + 1) } } }

/-- A host read or the scrub met an uncorrectable word at an address: ue_new, and the address if none is held (R295, log entry 100). -/
def captureUe (s : State) (a : Nat) : State :=
  let a := if a < 0x80000000 then a else s.mem.place (a / 32) * 32 + a % 32
  if a < 0x80000000 then { s with ser := { s.ser with errAddr := if s.ser.ueNew then s.ser.errAddr else a, ueNew := true } }
  else
    { s with hbm := { s.hbm with stackTbl := tmod s.hbm.stackTbl (hbmMap a).1 {} fun k =>
      { k with errAddr := if k.ueNew then k.errAddr else a, ueNew := true } } }

/-- The second copy of a retained address (R277), or what a rebuild has put into the reserve in its place (R278): at its offset of the shadow region, there in another slice (log entry 31). -/
def second (c : Conf) (a : Nat) : Nat :=
  let b := a - rgnBase c 3 * page + rgnBase c 4 * page
  b ^^^ (if bits a 22 2 ^^^ bits b 22 2 = 1 then 0x2000 else 0x1000)

/-- A Serai address lies in a slice that has left service. -/
def sliceGone (s : State) (a : Nat) : Bool := !bit s.ser.up.toNat (seraiMap a).1

/-- A read meets word w: a correction is counted and written back (R294); an uncorrectable word is counted and written back as poisoned (R295), except in
the retained region, whose first copy is rewritten from the second (R279), where that is not lost and still to be rebuilt (R278). No page is copied first, and its event is the caller's. -/
def meetBase (s : State) (w : Nat) : State :=
  let e := tget s.mem.err w 0
  let hbm := s.mem.hbmAt w
  if e = 0 then s
  else match decodeWord hbm e with
    | some _ => countCe { s with mem := setErr s.mem w 0 } w
    | none =>
      let c := s.cfg.conf
      if rgnOf c (w * 32) = 3 ∧ !hbm then
        if badWord s.mem (second c (w * 32) / 32) || (s.ser.rebuild && sliceGone s (second c (w * 32))) then enterHold (countUe s w)
        else let s := countUe s w; { s with mem := setErr s.mem w 0 }
      else let s := countUe s w; { s with mem := setErr s.mem w (poisonPat hbm) }

/-- A page goes into the reserve of its stack (R469): its words are read as by an engine, with corrections, and one that cannot be corrected is
copied as poisoned. A page of the Serai goes to a stack that the spec does not name (R304, R306, log entry 46). -/
def copyPage (s : State) (jr : JobRec) (p : Nat) : State :=
  let base := pageBase jr p
  let s := (errWords s.mem base page).foldl (fun s w => meetBase (if badWord s.mem w then noteUe s w 0 else s) w) s
  if base < 0x80000000 then addSomeStk (tally s 2 false base page) true page
  else addStk (addStk s (hbmMap base).1 false page) (hbmMap base).1 true page

/-- The first write to a protected page copies the page (R469), for the snapshot in progress and for the held image, whose page it is until then (log
entry 87). -/
def touch (s : State) (a : Nat) : State :=
  match s.cfg.conf.job, pageOf s.cfg.conf a with
  | some jr, some p =>
    let new (x : Option Snap) : Bool := match x with | some sn => !sn.has p | none => false
    if !new s.job.cur && !new s.job.held then s
    else
      let s := copyPage s jr p
      let j := s.job
      let f (x : Option Snap) : Option Snap := x.map fun sn => sn.copy s.mem p (pageBase jr p)
      { s with job := { j with cur := f j.cur, held := f j.held, copied := j.copied + b2n (new j.cur || j.cur.isNone) } }
  | _, _ => s

/-- The pages of a range are copied before it is written (R469). -/
def touchAll (s : State) (a n : Nat) : State :=
  if n = 0 then s else (List.range ((a + n - 1) / page - a / page + 1)).foldl (fun s i => touch s ((a / page + i) * page)) s

/-- Write every word that a range touches as poisoned (R293). -/
def poison (s : State) (a n : Nat) : State :=
  let s := touchAll s a n
  { s with mem := (wordsOf a n).foldl (fun m w => setErr m w (poisonPat (s.mem.hbmAt w))) s.mem }

/-- A read meets word w: a protected page is copied before one of its words is written back as poisoned (R469). -/
def meetQuiet (s : State) (w : Nat) : State :=
  meetBase (if badWord s.mem w && tget s.mem.err w 0 ≠ poisonPat (s.mem.hbmAt w) then touch s (w * 32) else s) w

/-- A read meets word w, and one that cannot be corrected raises its event (R413, R415). -/
def meetWord (s : State) (w : Nat) : State := meetQuiet (if badWord s.mem w then noteUe s w 0 else s) w

/-- The words that a command reads: the first uncorrectable one of them raises no event here, since the failure of its command is that event (R446,
log entry 124). -/
def meetFor (s : State) (ws : List Nat) (first : Option Nat) : State :=
  ws.foldl (fun s w => if some (w * 32) = first then meetQuiet s w else meetWord s w) s

/-- Read a range as a command or an engine does: corrections and poisoning are written back, and the first address
that is uncorrectable is reported. -/
def fetch (s : State) (a n : Nat) : State × Option Nat :=
  let bad := firstBad s.mem a n
  let bad := match bad with
    | some x => if x < 0x80000000 ∧ rgnOf s.cfg.conf x = 3 then none else bad
    | none => none
  ((errWords s.mem a n).foldl meetWord s, bad)

/-- What a store of n bytes does to the errors of the words that it touches: a word covered whole loses its own (R293); of one covered in part, which
the read-modify-write reads, what can be corrected is, an uncorrectable one is poisoned (R66, R294, R295), and a poisoned one stays so (R296). -/
def storeErrs (s : State) (a n : Nat) : State :=
  (errWords s.mem a n).foldl (fun s w =>
    if !(partWords a n).contains w then { s with mem := setErr s.mem w 0 }
    else if tget s.mem.err w 0 = poisonPat (s.mem.hbmAt w) then s else meetWord s w) s

/-- Store bytes at an address: lost ranges drop the write (R297), the errors of the words are settled, and a protected page is copied first (R469). -/
def store (s : State) (a : Nat) (d : List Byte) : State :=
  if d = [] then s
  else if addrLost s a then s
  else
    let s := touchAll s a d.length
    let s := storeErrs s a d.length
    { s with mem := wrRaw s.mem a d }

/-- Store bytes as control traffic (R304, R306, log entry 46). -/
def storeCtl (s : State) (a : Nat) (d : List Byte) : State := store (tally s 5 true a d.length) a d

/-- Store bytes of the retained region, whose second copy is written too (R277) and counts in class 5 (R304). -/
def storeKept (s : State) (a : Nat) (d : List Byte) : State :=
  (List.range ((a + d.length - 1) / 4096 - a / 4096 + 1)).foldl (fun s i =>
    let lo := max a ((a / 4096 + i) * 4096)
    let n := min (a + d.length) ((a / 4096 + i + 1) * 4096) - lo
    store (tally s 5 true (second s.cfg.conf lo) n) (second s.cfg.conf lo) ((d.drop (lo - a)).take n)) (store s a d)

/-- Store bits at a bit address by read-modify-write (R66, R67). -/
def storeBits (s : State) (ba w v : Nat) : State :=
  let a := ba / 8
  let n := (ba + w - 1) / 8 - a + 1
  let old := leNat (rd s.mem a n)
  let sh := ba % 8
  let new := old - (bits old sh w) <<< sh + (v % 2 ^ w) <<< sh
  if w = 0 then s else store s a (natLe n new)

/-! ### Clusters and tiles in service -/

/-- A cluster. -/
def cluOf (s : State) (c : Nat) : Clu := tget s.ras.clus c {}

/-- Change a cluster. -/
def modClu (s : State) (c : Nat) (f : Clu → Clu) : State :=
  { s with ras := { s.ras with clus := tmod s.ras.clus c {} f } }

/-- The default of a tile's RAS record: slot 10 is the spare at delivery (R35, log entry 3). -/
def rasDflt (t : Nat) : TileRas := { st := if t % 16 = 10 then 1 else 0 }

/-- A tile's RAS record. -/
def rasOf (s : State) (t : Nat) : TileRas := tget s.ras.tiles t (rasDflt t)

/-- Change a tile's RAS record. -/
def modRas (s : State) (t : Nat) (f : TileRas → TileRas) : State :=
  { s with ras := { s.ras with tiles := tmod s.ras.tiles t (rasDflt t) f } }

/-- A tile. -/
def tileOf (s : State) (t : Nat) : Tile := tget s.til.tiles t {}

/-- Change a tile. -/
def modTile (s : State) (t : Nat) (f : Tile → Tile) : State :=
  { s with til := { s.til with tiles := tmod s.til.tiles t {} f } }

/-- Cluster c's die pair is in service. -/
def pairUp (s : State) (c : Nat) : Bool := bit s.ras.pairs.toNat (c / 4)

/-- Cluster c is in service (R37). -/
def cluUp (s : State) (c : Nat) : Bool :=
  pairUp s c && (cluOf s c).up && !(cluOf s c).wd && (cluOf s c).active ≠ 0

/-- Tile t takes jobs (R265): active, in a cluster in service. -/
def tileUp (s : State) (t : Nat) : Bool :=
  t % 16 < 11 && cluUp s (t / 16) && bit (cluOf s (t / 16)).active.toNat (t % 16) && (cluOf s (t / 16)).ivrOk

/-- The tile numbers of cluster c. -/
def tilesOf (c : Nat) : List Nat := (List.range 11).map (16 * c + ·)

/-- Every tile number. -/
def allTiles : List Nat := (List.range 16).flatMap tilesOf

/-- The usable tile count (R241, R265). -/
def usable (s : State) : Nat := (allTiles.filter (tileUp s)).length

/-- One of the tiles that take jobs, where nothing says which: a free value (R33). -/
def someTile (s : State) : State × Nat :=
  let l := allTiles.filter (tileUp s)
  ({ s with free := s.free + 1 }, l.getD ((Config.freeValue s.free).toNat % max 1 l.length) 0)

/-- The standby plane's index: A is 0, B is 1. -/
def planeOf (s : State) (b : Bool) : Plane := if b then s.ras.planeB else s.ras.planeA

/-- The active plane. -/
def activePlane (s : State) : Plane := planeOf s s.ras.actB

/-- nl_mask of an image (R540). -/
def fwNl (img : List Byte) : List Byte := slice img 0x28 32

/-- The numerics levels that the device carries (R4, R407): those of the running image, or NL1 where none has been loaded; never level 0. -/
def nlMask (s : State) : List Byte :=
  let img := (activePlane s).fw
  let n := leNat (fwNl img)
  natLe 32 (if img = [] then 2 else n - n % 2)

/-- Change a plane. -/
def setPlane (s : State) (b : Bool) (p : Plane) : State :=
  if b then { s with ras := { s.ras with planeB := p } } else { s with ras := { s.ras with planeA := p } }

/-- A standby plane is in service (R48, R550). -/
def standbyOk (s : State) : Bool := (planeOf s (!s.ras.actB)).st = 0 && s.ras.io1 && s.ras.io0

/-- The incarnation (R356). -/
def incarnation (s : State) : BitVec 32 := BitVec.ofNat 32 s.flash.ctr2 + s.cfg.conf.incBase

/-- A reply leaves the device. -/
def reply (s : State) (r : Reply) : State := { s with out := { s.out with replies := s.out.replies ++ [r] } }

/-- Ports that are up. -/
def portOf (s : State) (p : Nat) : Port := tget s.lnk.ports p {}

/-- Change a port. -/
def modPort (s : State) (p : Nat) (f : Port → Port) : State :=
  { s with lnk := { s.lnk with ports := tmod s.lnk.ports p {} f } }

/-- A mask of eight ports. -/
def portMask (s : State) (f : Port → Bool) : Nat := (List.range 8).foldl (fun a p => if f (portOf s p) then a + 2 ^ p else a) 0

/-- Any capacity is reduced (R13). -/
def degraded (s : State) : Bool :=
  usable s < 160 || allTiles.any (fun t => tileUp s t && (rasOf s t).frac < 16) || s.ras.pairs ≠ 0xF || s.ras.engines ≠ 0xFF || !s.ras.io0 || !s.ras.io1 || s.ras.fab ≠ 0x3F
    || s.ras.fabIo ≠ [] || !s.lm0.ok || !s.lm1.ok || s.ras.planeA.st ≠ 0 || s.ras.planeB.st ≠ 0
    || (List.range 8).any (fun k => (stackOf s k).lost || (stackOf s k).degraded || (tget s.hbm.units k {}).lanes < 64)

end Sys2Proof.Machine
end

