-- ==== Sys2Proof/Machine/Operands.lean ====
section
/-! DEFINITION. Every operand form: affine loop descriptors (R205 to R208), element access in every packing (R63 to
R68), block scales and their arrays (R69 to R81). -/

namespace Sys2Proof.Machine

/-- An affine loop descriptor (R205). -/
structure Desc where
  addr : Nat
  rem : Bool
  node : Nat
  fmt : Nat
  nlev : Nat
  cnt : List Nat
  str : List Int
  rsv : Bool
deriving DecidableEq, Repr

/-- Read a descriptor from its 64 bytes. `rsv` says that a reserved bit is set or that a node is named without rem. -/
def parseDesc (l : List Byte) (off : Nat) : Desc :=
  let w0 := wordAt l off
  let rem := bit w0 44
  let h := leNat (slice l (off + 8) 2)
  { addr := bits w0 0 44, rem := rem, node := bits w0 48 16, fmt := bits h 0 8, nlev := bits h 8 3,
    cnt := (List.range 6).map fun j => leNat (slice l (off + 0xA + 9 * j) 4),
    str := (List.range 6).map fun j => sgn 40 (leNat (slice l (off + 0xA + 9 * j + 4) 5)),
    rsv := bits w0 45 3 ≠ 0 || bits h 11 5 ≠ 0 || (!rem && bits w0 48 16 ≠ 0) }

/-- The count of level j; a level at or above nlev counts as 1 (R196). -/
def Desc.count (d : Desc) (j : Nat) : Nat := if j < d.nlev then d.cnt.getD j 1 else 1

/-- The stride of level j. -/
def Desc.stride (d : Desc) (j : Nat) : Int := if j < d.nlev then d.str.getD j 0 else 0

/-- The element width in bits. -/
def Desc.width (d : Desc) : Nat := fmtBits d.fmt

/-- The counts of the six levels. -/
def Desc.counts (d : Desc) : List Nat := (List.range 6).map d.count

/-- The number of elements. -/
def Desc.total (d : Desc) : Nat := d.counts.foldl (· * ·) 1

/-- A product of the counts of some levels. -/
def Desc.prod (d : Desc) (ls : List Nat) : Nat := ls.foldl (fun a j => a * d.count j) 1

/-- The element offset of an index tuple (R206). -/
def Desc.offset (d : Desc) (ix : List Nat) : Int :=
  (List.range 6).foldl (fun (a : Int) j => a + (ix.getD j 0 : Int) * d.stride j) 0

/-- The bit address of the element at an index tuple (R206). -/
def Desc.bitAddr (d : Desc) (ix : List Nat) : Nat := (8 * (d.addr : Int) + d.width * d.offset ix).toNat

/-- The index tuple of a linear index, level 0 varying fastest. -/
def tupleOf (counts : List Nat) (i : Nat) : List Nat :=
  match counts with
  | [] => []
  | c :: r => (if c = 0 then 0 else i % c) :: tupleOf r (if c = 0 then 0 else i / c)

/-- The linear index of a tuple. -/
def linearOf : List Nat → List Nat → Nat
  | c :: cs, i :: is => i + c * linearOf cs is
  | _, _ => 0

/-- The lowest and one past the highest bit that the index space reaches (R207); none where it names no element. -/
def Desc.span (d : Desc) : Option (Nat × Nat) :=
  if d.total = 0 then none
  else
    let f (up : Bool) : Int := (List.range 6).foldl (fun (a : Int) j =>
      let x := ((d.count j : Int) - 1) * d.stride j
      if up then a + max x 0 else a + min x 0) 0
    some ((8 * (d.addr : Int) + d.width * f false).toNat, (8 * (d.addr : Int) + d.width * (f true + 1)).toNat)

/-- The byte range of a descriptor's span. -/
def Desc.bytes (d : Desc) : Option (Nat × Nat) := d.span.map fun s => (s.1 / 8, cdiv s.2 8 - s.1 / 8)

/-- The span does not reach below address 0. -/
def Desc.nonneg (d : Desc) : Bool :=
  d.total = 0 || decide (0 ≤ 8 * (d.addr : Int) + d.width *
    (List.range 6).foldl (fun (a : Int) j => a + min (((d.count j : Int) - 1) * d.stride j) 0) 0)

/-- The packing unit's element count (R65). -/
def packUnit (fmt : Nat) : Nat := if fmt = 1 || fmt = 0x10 then 2 else if fmt = 2 || fmt = 3 then 4 else 1

/-- The stride rule of packed formats (R65). -/
def Desc.packed (d : Desc) : Bool :=
  let u := packUnit d.fmt
  let ls := (List.range 6).filter fun j => 1 < d.count j
  let inner := ls.find? fun j => d.stride j = 1
  u = 1 || ls.all fun j => some j = inner || d.stride j % (u : Int) = 0

/-- The descriptor is valid in itself (R65, R68, R206, R207): level count, unused levels zero, packing, alignment. -/
def Desc.valid (d : Desc) (remOk : Bool) : Bool :=
  1 ≤ d.nlev && d.nlev ≤ 6 && (remOk || !d.rem)
    && (List.range 6).all (fun j => j < d.nlev || (d.cnt.getD j 0 = 0 && d.str.getD j 0 = 0))
    && d.packed && (d.fmt ≠ 0x20 || d.addr % 32 = 0)

/-- The whole span lies in one region (R207). -/
def Desc.inRegion (c : Conf) (d : Desc) : Bool :=
  d.rem || match d.bytes with
    | none => true
    | some (a, n) => d.nonneg && oneRegion c a n

/-- An output descriptor names no element twice (R197). -/
def Desc.unique (d : Desc) : Bool :=
  let ls := ((List.range 6).filter fun j => 1 < d.count j).map fun j => ((d.stride j).natAbs, d.count j)
  let ls := ls.mergeSort fun a b => a.1 ≤ b.1
  (ls.foldl (fun (acc : Nat × Bool) x => (acc.1 + (x.2 - 1) * x.1, acc.2 && acc.1 < x.1)) (0, true)).2

/-- The bytes that a descriptor's elements occupy. -/
def Desc.byteList (d : Desc) : List Nat :=
  (List.range d.total).flatMap fun i =>
    let b := d.bitAddr (tupleOf d.counts i)
    (List.range ((b + d.width - 1) / 8 - b / 8 + 1)).map (b / 8 + ·)

/-- Two byte ranges meet. -/
def rangesMeet (a n b m : Nat) : Bool := n ≠ 0 && m ≠ 0 && a < b + m && b < a + n

/-- Two local descriptors share a byte (R208). -/
def Desc.overlaps (d e : Desc) : Bool :=
  !d.rem && !e.rem && match d.bytes, e.bytes with
    | some (a, n), some (b, m) => rangesMeet a n b m && (let l := e.byteList; d.byteList.any l.contains)
    | _, _ => false

/-- A local descriptor shares a byte with a range. -/
def Desc.meets (d : Desc) (a n : Nat) : Bool :=
  !d.rem && match d.bytes with
    | some (b, m) => rangesMeet a n b m && d.byteList.any fun x => a ≤ x && x < a + n
    | none => false

/-- Whether a local descriptor's elements at some tuples share a byte with a range. -/
def Desc.meetsAt (d : Desc) (f : List Nat → Bool) (a n : Nat) : Bool :=
  !d.rem && match d.bytes with
    | some (b, m) => rangesMeet a n b m && (List.range d.total).any fun i =>
        let t := tupleOf d.counts i
        let x := d.bitAddr t
        f t && rangesMeet a n (x / 8) ((x + d.width - 1) / 8 - x / 8 + 1)
    | none => false

/-- The encoding of the element at an index tuple. -/
def readEl (m : Mem) (d : Desc) (ix : List Nat) : Nat := readBits m (d.bitAddr ix) d.width

/-- The exact value of an element (R55, R59, R103). -/
def elVal (fmt x : Nat) : Val :=
  if fmt = 0x20 then (LWord.ofBits x).value else match fmtOf fmt with | some f => decodeVal f x | none => .nan

/-! ### Block scales -/

/-- A block-scale descriptor with its scale array (R76, R78, R195). -/
structure Bsd where
  blk : Nat := 0
  dir : Nat := 0
  sfmt : Nat := 0
  l2 : Bool := false
  tscale : Nat := 0
  rsv : Bool := false
  base : Nat := 0
  rstr : Nat := 0
  bstr : Nat := 0
  rsv2 : Bool := false
deriving DecidableEq, Repr

/-- Read a block-scale descriptor, scale base and strides laid out as in the extension of R195. -/
def parseBsd (l : List Byte) (off : Nat) : Bsd :=
  let w := wordAt l off
  { blk := bits w 0 3, dir := bits w 3 2, sfmt := bits w 5 2, l2 := bit w 7, tscale := bits w 32 32, rsv := bits w 8 24 ≠ 0,
    base := wordAt l (off + 8), rstr := bits (wordAt l (off + 16)) 0 32, bstr := wordAt l (off + 24),
    rsv2 := bits (wordAt l (off + 16)) 32 32 ≠ 0 }

/-- The descriptor is enabled (R75). -/
def Bsd.on (b : Bsd) : Bool := b.blk ≠ 0 || b.l2

/-- The field faults of R77. -/
def Bsd.fieldOk (b : Bsd) : Bool :=
  !b.rsv && b.sfmt < 2 && b.dir < 3 && (b.blk ≠ 0 || (b.dir = 0 && b.sfmt = 0)) && (b.l2 || b.tscale = 0)

/-- The block size along a dimension of the given extent (R76). -/
def Bsd.size (b : Bsd) (extent : Nat) : Nat := if b.blk = 7 then max extent 1 else 4 * 2 ^ b.blk

/-- Whether the block runs along the columns (true) or the rows, by operand: 0 A, 1 B, 2 output, EWISE or COPY
operand. None where dir names a dimension that the operand lacks (R73, R77). -/
def Bsd.along (b : Bsd) (role : Nat) : Option Bool :=
  match role, b.dir with
  | 0, 0 => some true | 0, 1 => some false | 1, 0 => some false | 1, 2 => some true
  | 2, 2 => some true | 3, 2 => some true | 3, 1 => some false | _, _ => none

/-- The descriptor faults of R77. -/
def Bsd.descOk (b : Bsd) (role : Nat) : Bool :=
  (b.blk ≠ 7 || role = 2)
    && (b.blk = 0 || (b.along role).isSome)
    && (b.sfmt ≠ 1 || b.l2)
    && (!b.l2 || (b.tscale < 0x7F800000 && b.tscale ≠ 0))
    && !(b.l2 && b.blk = 0 && role = 2)

/-- Entries per row and rows of the scale array of an operand with the given rows and columns (R78). -/
def Bsd.shape (b : Bsd) (role rows cols : Nat) : Nat × Nat :=
  if b.blk = 0 then (0, 0)
  else if (b.along role).getD true then (cdiv cols (b.size cols), rows) else (cols, cdiv rows (b.size rows))

/-- The bytes that the scale arrays of `bc` batches reach (R78, R253). -/
def Bsd.extent (b : Bsd) (role rows cols bc : Nat) : Nat :=
  let (e, r) := b.shape role rows cols
  if e = 0 ∨ r = 0 ∨ bc = 0 then 0 else (bc - 1) * b.bstr + (r - 1) * b.rstr + e

/-- The rows of the scale arrays of `bc` batches (R78): the address and the bytes of each. -/
def Bsd.strips (b : Bsd) (role rows cols bc : Nat) : List (Nat × Nat) :=
  let (e, r) := b.shape role rows cols
  if e = 0 then [] else (List.range bc).flatMap fun i => (List.range r).map fun j => (b.base + i * b.bstr + j * b.rstr, e)

/-- The address of the scale of the element at (row, column) of batch b (R78). -/
def Bsd.addrOf (b : Bsd) (role rows cols bi r c : Nat) : Nat :=
  let (er, ec) := if (b.along role).getD true then (r, c / b.size cols) else (r / b.size rows, c)
  b.base + bi * b.bstr + er * b.rstr + ec

/-- The scale byte of an element, none where the operand carries no block scales. -/
def Bsd.byte (m : Mem) (b : Bsd) (role rows cols bi r c : Nat) : Option Nat :=
  if b.blk = 0 then none else some (rdB m (b.addrOf role rows cols bi r c)).toNat

/-- An element's value under its block scale (R71, R72). The zero of a negative element under the zero scale is -0: R72 names no sign (log entry
120). -/
def scaled (v : Val) (sfmt : Nat) (sb : Option Nat) : Val :=
  match sb with | none => v | some b => Val.mul v (scaleVal sfmt b)

/-- The second-level scale as an exact value (R80, R81). -/
def Bsd.second (b : Bsd) : Val := if b.l2 then decodeVal fp32 b.tscale else .fin false 1 1 0

end Sys2Proof.Machine
end

