-- ==== Sys2Proof/Machine/Compute.lean ====
section
/-! DEFINITION. What the compute commands compute: products and sums (R111 to R128), the epilogue (R171 to R176), output
scales (R93 to R98), top-k (R177 to R181), the plan and its jobs (R241 to R257, R266 to R269). -/

namespace Sys2Proof.Machine

/-! ### Header fields of a record (R190) -/

/-- opcode -/
def rOpc (r : List Byte) : Nat := fieldAt r 0 0 8
/-- irq -/
def rIrq (r : List Byte) : Bool := bit (wordAt r 0) 8
/-- tke -/
def rTke (r : List Byte) : Bool := bit (wordAt r 0) 9
/-- tag -/
def rTag (r : List Byte) : Nat := fieldAt r 0 16 16
/-- stream -/
def rStream (r : List Byte) : Nat := fieldAt r 0 32 16
/-- seq -/
def rSeq (r : List Byte) : W64 := BitVec.ofNat 64 (wordAt r 8)
/-- nctl -/
def rNctl (r : List Byte) : Nat := fieldAt r 0x10 0 32
/-- tid -/
def rTid (r : List Byte) : Nat := fieldAt r 0x10 32 32
/-- seed -/
def rSeed (r : List Byte) : Nat := wordAt r 0x18
/-- nrec -/
def rNrec (r : List Byte) : Nat := wordAt r 0x20
/-- ectl -/
def rEctl (r : List Byte) : Nat := fieldAt r 0x28 0 32
/-- kctl -/
def rKctl (r : List Byte) : Nat := fieldAt r 0x28 32 32
/-- cvt -/
def rCvt (r : List Byte) : Nat := fieldAt r 0x30 0 8
/-- sub -/
def rSub (r : List Byte) : Nat := fieldAt r 0x30 8 8
/-- ext_len -/
def rExtLen (r : List Byte) : Nat := fieldAt r 0x30 16 4
/-- prog -/
def rProg (r : List Byte) : Nat := fieldAt r 0x30 24 16
/-- ext -/
def rExt (r : List Byte) : Nat := wordAt r 0x38

/-- A GMATMUL group: first row, row count, base of its operand B (R201). -/
structure Grp where
  m0 : Nat
  cnt : Nat
  base : Nat
deriving DecidableEq, Repr

/-- Everything a compute command reads its elements through. `rx` is the record followed by its extension, so that the
extension stands at 0x100; `off` is added to the coordinates of every draw (R390); `dev` is the error pattern, by word index, of the accumulator
words that a faulty drain meets (R413). -/
structure Env where
  m : Mem
  rx : List Byte
  opc : Nat
  sub : Nat
  a : Desc
  b : Desc
  o : Desc
  e : Desc
  sa : Bsd
  sb : Bsd
  so : Bsd
  nctl : Nat
  ectl : Nat
  kctl : Nat
  tke : Bool
  cvt : Nat
  anchor : BitVec 12
  priv : List (Nat × Nat)
  groups : List Grp
  off : Nat × Nat × Nat := (0, 0, 0)
  dev : List (Nat × BitVec 192) := []
deriving DecidableEq, Repr

/-- The privileged-channel list: column and scale byte (R121). -/
def privList (m : Mem) (rx : List Byte) : List (Nat × Nat) :=
  (List.range (fieldAt rx 0x160 0 16)).map fun i =>
    let w := leNat (rd m (wordAt rx 0x168 + 8 * i) 8)
    (bits w 0 32, bits w 32 8)

/-- The privileged list keeps R123. -/
def privOk (m : Mem) (rx : List Byte) (n : Nat) : Bool :=
  let l := (List.range (fieldAt rx 0x160 0 16)).map fun i => leNat (rd m (wordAt rx 0x168 + 8 * i) 8)
  let cs := l.map fun w => bits w 0 32
  l.all (fun w => bits w 40 24 = 0) && cs.all (· < n) && (cs.zip (cs.drop 1)).all fun p => p.1 < p.2

/-- The group table (R201); empty for other opcodes. -/
def groupList (m : Mem) (rx : List Byte) : List Grp :=
  if rOpc rx = 0x11 then (List.range (fieldAt rx 0x1C8 0 32)).map fun i =>
    let w := leNat (rd m (wordAt rx 0x1D0 + 16 * i) 16)
    ⟨bits w 0 32, bits w 32 32, bits w 64 44⟩
  else []

/-- The environment of a compute record with its anchor. -/
def mkEnv (m : Mem) (rx : List Byte) (anchor : BitVec 12) : Env :=
  { m := m, rx := rx, opc := rOpc rx, sub := rSub rx, a := parseDesc rx 0x40, b := parseDesc rx 0x80, o := parseDesc rx 0xC0,
    e := parseDesc rx 0x180, sa := parseBsd rx 0x100, sb := parseBsd rx 0x120, so := parseBsd rx 0x140, nctl := rNctl rx,
    ectl := rEctl rx, kctl := rKctl rx, tke := rTke rx, cvt := rCvt rx, anchor := anchor, priv := privList m rx,
    groups := groupList m rx }

/-- M of a MATMUL-shaped command. -/
def Env.mm (v : Env) : Nat := v.o.count 1
/-- N -/
def Env.nn (v : Env) : Nat := v.o.count 0
/-- K -/
def Env.kk (v : Env) : Nat := v.a.count 0
/-- The level that a REDUCE sums over. -/
def Env.lv (v : Env) : Nat := v.sub % 8

/-- The index of the group that holds row m. -/
def Env.grpOf (v : Env) (r : Nat) : Nat := (v.groups.findIdx? fun g => g.m0 ≤ r && r < g.m0 + g.cnt).getD 0

/-- Operand B as group g reads it: descriptor and scales (R201). -/
def Env.bOf (v : Env) (g : Nat) : Desc × Bsd :=
  match v.groups[g]? with
  | some x => ({ v.b with addr := x.base }, { v.sb with base := v.sb.base + g * wordAt v.rx 0x1E8 })
  | none => (v.b, v.sb)

/-- The batch tuple of a linear batch index over levels 2 to 5. -/
def batchTuple (d : Desc) (bi : Nat) : List Nat := tupleOf (d.counts.drop 2) bi

/-- The factors of a product: encodings and scale bytes of A and B (R111, R122, R130). -/
structure Factors where
  ea : Nat
  sa : Option Nat
  eb : Nat
  sb : Option Nat
  priv : Bool
deriving DecidableEq, Repr

/-- The factors of the product at (b, m, n, k). -/
def Env.factors (v : Env) (bi m n k : Nat) : Factors :=
  let bt := batchTuple v.o bi
  let (db, sb) := v.bOf (v.grpOf m)
  { ea := readEl v.m v.a (k :: m :: bt), sa := v.sa.byte v.m 0 v.mm v.kk bi m k,
    eb := readEl v.m db (n :: k :: bt), sb := sb.byte v.m 1 v.kk v.nn bi k n, priv := v.priv.any (·.1 = n) }

/-- The exact product (R111, R122). -/
def Env.product (v : Env) (f : Factors) : Val :=
  Val.mul (scaled (elVal v.a.fmt f.ea) v.sa.sfmt f.sa)
    (scaled (elVal v.b.fmt f.eb) v.sb.sfmt (if f.priv then none else f.sb))

/-- The draw of a term at its coordinates (R114). -/
def Env.draw (v : Env) (bi m n k : Nat) : Nat := dither (rSeed v.rx) (rTid v.rx) (bits v.nctl 0 8) (bi + v.off.1) (m + v.off.2.1) (n + v.off.2.2) k

/-- Place one term under the command's controls. -/
def Env.place (v : Env) (bi m n k : Nat) (p : Val) : Placed :=
  Machine.place v.anchor (bits v.nctl 21 2) (bit v.nctl 23) (bit v.nctl 24)
    (if bits v.nctl 21 2 = 2 then v.draw bi m n k else 0) p

/-- The residue that the residue path forms for the significands of a product (R138). -/
def Env.image (v : Env) (f : Factors) : Nat :=
  let sc (sf : Nat) (b : Option Nat) : Nat := match b with | none => 1 | some b => (scaleVal sf b).sig
  (elVal v.a.fmt f.ea).sig * sc v.sa.sfmt f.sa * (elVal v.b.fmt f.eb).sig * sc v.sb.sfmt (if f.priv then none else f.sb) % 127

/-- The carried residue of a term under the command's controls (R138). -/
def Env.carry (v : Env) (bi m n k img : Nat) (p : Val) : Nat :=
  termResidue v.anchor (bits v.nctl 21 2) (if bits v.nctl 21 2 = 2 then v.draw bi m n k else 0) img p

/-- The index tuple of a REDUCE input: O's tuple with k at the reduced level. -/
def Env.redTuple (v : Env) (ot : List Nat) (k : Nat) : List Nat := ot.set v.lv k

/-- The job levels of a REDUCE: columns and rows (R242). -/
def Env.redLevels (v : Env) : Nat × Nat :=
  let ls := (List.range 6).filter (· ≠ v.lv)
  (ls.getD 0 0, ls.getD 1 1)

/-- The output tuple of logical (b, m, n). -/
def Env.outTuple (v : Env) (bi m n : Nat) : List Nat :=
  if v.opc = 0x13 then
    let (lc, lr) := v.redLevels
    let others := (List.range 6).filter fun j => j ≠ lc && j ≠ lr
    let bt := tupleOf (others.map v.o.count) bi
    (List.range 6).map fun j => if j = lc then n else if j = lr then m else bt.getD (others.findIdx (· == j)) 0
  else n :: m :: batchTuple v.o bi

/-- The address of the scale byte of a REDUCE input. A scale shared along the reduced level has that level as its row dimension where it is
neither level 0 nor 1 (log entry 32). -/
def Env.redAddr (v : Env) (t : List Nat) : Option Nat :=
  if v.sa.blk = 0 then none
  else
    let role := if v.sa.dir = 0 then (if v.lv = 0 then 2 else 3) else 3
    let sa := { v.sa with dir := if v.sa.dir = 0 then (if v.lv = 0 then 2 else 1) else v.sa.dir }
    let rl := if v.sa.dir = 0 ∧ v.lv ≥ 2 then v.lv else 1
    let rest := (List.range 6).filter fun j => j ≠ 0 && j ≠ rl
    some <| sa.addrOf role (v.a.count rl) (v.a.count 0) (linearOf (rest.map v.a.count) (rest.map (t.getD · 0))) (t.getD rl 0) (t.getD 0 0)

/-- That byte. -/
def Env.redScale (v : Env) (t : List Nat) : Option Nat := (v.redAddr t).map fun a => (rdB v.m a).toNat

/-- A ledger word that a REDUCE reads (R125): one with another anchor is a NaN term, which traps under nan_trap; one that is NaN itself is merged
and traps nothing (log entry 105). -/
def Env.inputTrap (v : Env) (w : LWord) : Nat := if w.anchor ≠ v.anchor && bit v.nctl 24 then 2 else 0

/-- What one output sums to: its word, the trap met, whether an input word had another anchor, and the carried residue. -/
structure Sum where
  word : LWord
  trap : Nat := 0
  mis : Bool := false
  res : Nat := 0
deriving DecidableEq, Repr

/-- The sum of one output over part of K (R124, R125, R127, R128, R138). -/
def Env.sum (v : Env) (bi m n k0 k1 : Nat) : Sum :=
  let ks := (List.range (k1 - k0)).map (k0 + ·)
  ks.foldl (fun (acc : Sum) k =>
    if v.opc = 0x13 then
      let t := v.redTuple (v.outTuple bi m n) k
      let x := readEl v.m v.a t
      if v.a.fmt = 0x20 then
        let w := LWord.ofBits x
        { word := acc.word.addInput w, trap := max acc.trap (v.inputTrap w), mis := acc.mis || w.anchor ≠ v.anchor,
          res := (acc.res + (if w.anchor = v.anchor then carried w.val else 0)) % 127 }
      else
        let sb := v.redScale t
        let y := scaled (elVal v.a.fmt x) v.sa.sfmt sb
        let p := v.place bi m n k y
        let img := (elVal v.a.fmt x).sig * (match sb with | none => 1 | some b => (scaleVal v.sa.sfmt b).sig) % 127
        { acc with word := acc.word.add p.word, trap := max acc.trap p.trap, res := (acc.res + v.carry bi m n k img y) % 127 }
    else
      let f := v.factors bi m n k
      let y := v.product f
      let p := v.place bi m n k y
      { acc with word := acc.word.add p.word, trap := max acc.trap p.trap, res := (acc.res + v.carry bi m n k (v.image f) y) % 127 })
    { word := LWord.zero v.anchor }

/-! ### The residue check of a drain (R139) -/

/-- The error pattern of word i. -/
def devAt (dev : List (Nat × BitVec 192)) (i : Nat) : BitVec 192 := (dev.filter (·.1 = i)).foldl (fun a x => a ^^^ x.2) 0

/-- The words of a block of `nc` columns as the drain meets them: with their error patterns. -/
def faulted (dev : List (Nat × BitVec 192)) (nc : Nat) (ws : List LWord) : List LWord :=
  if dev = [] then ws else (ws.zipIdx).map fun x => { x.1 with val := x.1.val ^^^ devAt dev (64 * (x.2 / max 1 nc) + x.2 % max 1 nc) }

/-- Some word's residue differs from the residue carried beside it (R139). -/
def residueBad (ws : List LWord) (rs : List Nat) : Bool := (ws.zip rs).any fun x => residue x.1.val ≠ x.2

/-! ### The epilogue (R134 to R137, R171 to R176) -/

/-- The scale product of an output column (R134, R122). -/
def Env.outScale (v : Env) (n : Nat) : Val :=
  let s := Val.mul v.sa.second (if v.opc = 0x13 then .fin false 1 1 0 else v.sb.second)
  match v.priv.find? (·.1 = n) with
  | some (_, b) => Val.mul s (scaleVal v.sb.sfmt b)
  | none => s

/-- The exact output value of a word: an exact zero is +0 (R88, R134, R137). -/
def Env.outVal (v : Env) (n : Nat) (w : LWord) : Val :=
  match outValue w (v.outScale n) with
  | .fin ng num d e => .fin (ng && num ≠ 0) num d e
  | x => x

/-- Whether the output converts directly, without a first rounding to FP32 (R136, R171). -/
def Env.direct (v : Env) : Bool := (v.opc = 0x13 || bits v.ectl 0 2 = 0) && v.so.blk = 0

/-- The FP32 value y that the epilogue holds before its final conversion (R174, R175), with its flags. -/
def Env.epi (v : Env) (bi m n : Nat) (w : LWord) : Nat × Rep :=
  let x := convert fp32 0 false 0 (v.outVal n w)
  let r0 := repIeee x
  let fam := if v.opc = 0x13 then 0 else bits v.ectl 0 2
  if fam = 1 then
    let ee := widen32 v.e.fmt (readEl v.m v.e (n :: m :: batchTuple v.o bi))
    let (y, r) := f32 (if bit v.ectl 2 then 3 else 1) x.enc ee 0
    (y, r0.join r)
  else if fam = 2 then
    let vec (off : Nat) : Nat := leNat (rd v.m (wordAt v.rx off + 4 * n) 4)
    let sc := bit v.ectl 7
    let bi := bit v.ectl 8
    let (y1, r1) := if sc || bi then f32 4 x.enc (if sc then vec 0x170 else 0x3F800000) (if bi then vec 0x178 else 0) else (x.enc, {})
    let (y, r2) := activation (bits v.ectl 3 4) y1
    (y, (r0.join r1).join r2)
  else (x.enc, r0)

/-- Convert a value to the output format at an element's coordinates (R85, R114). -/
def Env.conv (v : Env) (bi m n : Nat) (x : Val) : Nat × Rep :=
  match fmtOf v.o.fmt with
  | none => (0, {})
  | some f =>
    let rnd := bits v.cvt 0 3
    let r := convert f rnd (bit v.cvt 3) (if rnd = 2 then v.draw bi m n 0xFFFFFFFF else 0) x
    (r.enc, repTo f r)

/-- The final element of an output without on-the-fly scales. -/
def Env.final (v : Env) (bi m n : Nat) (w : LWord) : Nat × Rep :=
  if v.o.fmt = 0x20 then ({ w with anchor := v.anchor }.bits, repWord w)
  else if v.direct then
    let (x, r) := v.conv bi m n (v.outVal n w)
    (x, (repWord w).join r)
  else
    let (y, r) := v.epi bi m n w
    let (x, r2) := v.conv bi m n (decodeVal fp32 y)
    (x, ((repWord w).join r).join r2)

/-! ### On-the-fly output scales (R93 to R96) -/

/-- Whether a ≤ b for non-negative finite values. -/
def Val.le (a b : Val) : Bool := !(b.lt a)

/-- The largest magnitude of some FP32 encodings; none where one is NaN or Inf (R94). -/
def amaxOf (ys : List Nat) : Option Nat :=
  ys.foldl (fun (acc : Option Nat) y => let a := y % 2 ^ 31; acc.bind fun m => if 0x7F800000 ≤ a then none else some (max m a)) (some 0)

/-- The scale byte of a block (R95), with M the largest finite value and t the second-level scale. -/
def scaleFor (sfmt : Nat) (f : Fmt) (t : Val) (amax : Nat) : Nat :=
  let x := decodeVal fp32 amax
  let mt := Val.mul (.fin false f.maxQ 1 f.maxG) t
  if amax = 0 then (if sfmt = 0 then 127 else 0x38)
  else if sfmt = 0 then
    ((List.range 255).find? fun (b : Nat) => x.le (Val.mul mt (.fin false 1 1 ((b : Int) - 127)))).getD 254
  else (((List.range 0x7E).map (· + 1)).find? fun b => x.le (Val.mul mt (scaleVal 1 b))).getD 0x7E

/-- The columns of a job row in runs of one output block each, `bs` columns at most (R73, R94): a REDUCE over level 0 has its columns at another
level than O's level 0, so that each of them is a block of its own. -/
def Env.scaleRuns (v : Env) (bs : Nat) (cols : List Nat) : List (List Nat) :=
  if v.opc = 0x13 && v.lv = 0 then cols.map ([·]) else (List.range (cdiv cols.length bs)).map fun j => (cols.drop (bs * j)).take bs

/-- The address of the scale byte of the output at job coordinates (b, m, n), by O's own levels (R73, R78). -/
def Env.scaleAddr (v : Env) (bi m n : Nat) : Nat :=
  let t := v.outTuple bi m n
  v.so.addrOf 2 (v.o.count 1) (v.o.count 0) (linearOf (v.o.counts.drop 2) (t.drop 2)) (t.getD 1 0) (t.getD 0 0)

/-- Quantise a block of FP32 values at (b, m, n): the scale byte and the elements (R94 to R96). -/
def Env.quant (v : Env) (bi m : Nat) (ys : List (Nat × Nat)) (amax : Option Nat) : Nat × List Nat × Rep :=
  match fmtOf v.o.fmt with
  | none => (0, [], {})
  | some f =>
    match amax with
    | none => (if v.so.sfmt = 0 then 0xFF else 0x7F, ys.map fun _ => 0,
        { spec := (ys.filter fun y => 0x7F800000 ≤ y.2 % 2 ^ 31).length })
    | some am =>
      let b := scaleFor v.so.sfmt f v.so.second am
      let sc := Val.mul v.so.second (scaleVal v.so.sfmt b)
      let rs := ys.map fun y => v.conv bi m y.1 (Val.div (decodeVal fp32 y.2) sc)
      (b, rs.map Prod.fst, (rs.map Prod.snd).foldl Rep.join {})

/-! ### Top-k (R178 to R181) -/

/-- A list entry: key and index. -/
abbrev KEnt := BitVec 32 × BitVec 32

/-- Entry a comes before entry b (R179). -/
def kBefore (mag low : Bool) (a b : KEnt) : Bool :=
  let pad (x : KEnt) := x.2 = 0xFFFFFFFF
  let isN (x : KEnt) := 0x7F800000 < x.1.toNat % 2 ^ 31
  let key (x : KEnt) : Int := let k : Nat := x.1.toNat % 2 ^ 31; if mag || x.1.toNat < 2 ^ 31 then k else -(k : Int)
  if pad a then false else if pad b then true
  else if isN a && !isN b then true else if isN b && !isN a then false
  else if !isN a && key a ≠ key b then (if low then decide (key a < key b) else decide (key b < key a))
  else a.2.toNat < b.2.toNat

/-- The first n entries of some entries in the order of R179, padded (R180). -/
def kTake (kctl n : Nat) (l : List KEnt) : List KEnt :=
  let r := (l.mergeSort fun a b => kBefore (bit kctl 10) (bit kctl 11) a b).take n
  r ++ List.replicate (n - r.length) (0, 0xFFFFFFFF)

/-- The key of an FP32 value: a NaN keys as the canonical NaN. -/
def keyOf (y : Nat) : BitVec 32 := if 0x7F800000 < y % 2 ^ 31 then 0x7FC00000 else BitVec.ofNat 32 y

/-- The key of an element of TOPK (R178): it widened exactly to FP32; a value that FP32 does not hold has a free key (log entry 93). -/
def topKey (fmt x : Nat) : BitVec 32 :=
  let r := convert fp32 0 false 0 (elVal fmt x)
  if r.inexact then Config.topKey fmt x else keyOf r.enc

/-! ### The plan (R241 to R257) -/

/-- A power of two at least k. -/
def pow2Up (k : Nat) : Nat := 2 ^ clog2 k

/-- The chunk length (R158, R242). -/
def chunkLen (opc fa fb : Nat) : Nat :=
  if opc = 0x13 then 256
  else if (fa = 1 ∧ fb = 1) ∨ fa = 0x10 then 256 else if fa = 8 ∨ fa = 9 ∨ fa = 0xA ∨ fa = 0xB then 64 else 128

/-- The shape of a command: batches, rows, columns, summed extent (R242). -/
def Env.shape (v : Env) : Nat × Nat × Nat × Nat :=
  match v.opc with
  | 0x12 => (v.o.prod [2, 3, 4, 5], v.o.count 1, v.o.count 0, 0)
  | 0x13 =>
    let (lc, lr) := v.redLevels
    (v.o.prod ((List.range 6).filter fun j => j ≠ lc && j ≠ lr), v.o.count lr, v.o.count lc, v.a.count v.lv)
  | 0x14 => (v.a.prod [2, 3, 4, 5], if bit v.kctl 9 then v.a.count 0 else v.a.count 1,
      if bit v.kctl 9 then v.a.count 1 else v.a.count 0, 0)
  | _ => (v.o.prod [2, 3, 4, 5], v.mm, v.nn, v.kk)

/-- Rows and columns of a job (R242). -/
def jobShape (opc kctl : Nat) : Nat × Nat := if opc = 0x14 ∧ bit kctl 9 then (64, 128) else (128, 64)

/-- The block rows of a command: first row and row count (R243). -/
def Env.blockRows (v : Env) (rows : Nat) : List (Nat × Nat) :=
  let jr := (jobShape v.opc v.kctl).1
  let cut (m0 n : Nat) : List (Nat × Nat) := (List.range (cdiv n jr)).map fun i => (m0 + jr * i, min jr (n - jr * i))
  if v.opc = 0x11 then v.groups.flatMap fun g => cut g.m0 g.cnt else cut 0 rows

/-- The scale pass is present (R98, R244). -/
def Env.scalePass (v : Env) : Bool := v.opc ≠ 0x14 && 5 ≤ v.so.blk

/-- The parts of K: s and kp (R246), with a visit-order entry, the number of output blocks and of tiles; R252 lowers a fill
split until the workspace fits the ceiling. -/
def splitK (vo k lc jout tact : Nat) (may : Bool) (fits : Nat → Bool) : Nat × Nat :=
  let kc := cdiv k lc
  if kc = 0 then (1, 0)
  else
    let kmax := if bits vo 16 4 = 0 then 0 else 2 ^ (bits vo 16 4 + 4)
    let scap := if kmax = 0 then 1 else cdiv kc kmax
    let ks := bits vo 7 2
    let s0 := if !may then 1 else if ks = 2 then max scap (bits vo 9 7)
      else if ks = 1 ∨ tact ≤ jout then scap else max scap (min (tact / max jout 1) (kc / 16))
    let base := if !may then 1 else max scap (if ks = 2 then bits vo 9 7 else 1)
    let g := 256 / lc
    let derive (s : Nat) : Nat × Nat :=
      let s := max 1 (min s kc)
      let kp := cdiv (cdiv kc s) g * g
      (cdiv kc kp, kp)
    let tries := (List.range s0).map fun i => s0 - i
    match tries.find? fun s => s ≤ base || fits (derive s).1 with
    | some s => derive s
    | none => derive base

/-- The workspace in bytes (R250). -/
def Env.workspace (v : Env) (s jout : Nat) : Nat :=
  (if 1 < s then 262144 * s * jout else 0) + (if v.scalePass then 33280 * jout else 0) + (if v.tke then 65536 * jout else 0)

/-- The top-k rounds (R244, R249): the blocks along the selection dimension. -/
def Env.rounds (v : Env) (mb nb : Nat) : Nat :=
  if !v.tke then 0
  else if v.opc = 0x14 then clog2 nb
  else clog2 (if bit v.kctl 9 then mb else nb)

/-- The jobs of top-k round r: pairs of neighbouring lists' blocks (R249). -/
def roundJobs (along across r : Nat) : Nat := cdiv along (2 ^ (r + 1)) * across

/-- Make the plan (R241): phases with job indices running on from one to the next (R245). -/
def Env.plan (v : Env) (vo tact ceilMib : Nat) (pid : BitVec 16) (gen : BitVec 32) : Plan :=
  let (bc, rows, cols, k) := v.shape
  let lc := chunkLen v.opc v.a.fmt v.b.fmt
  let blocks := v.blockRows rows
  let nb := if v.opc = 0x14 then max 1 (cdiv cols (jobShape v.opc v.kctl).2) else cdiv cols (jobShape v.opc v.kctl).2
  let jout := bc * blocks.length * nb
  let may := v.opc = 0x10 || v.opc = 0x11 || v.opc = 0x13
  let (s, kp) := splitK vo k lc jout tact may fun s => v.workspace s jout ≤ ceilMib * 0x100000
  let sel := v.opc ≠ 0x14 && bit v.kctl 9
  let along := if v.opc = 0x14 then nb else if sel then blocks.length else nb
  let across := jout / max along 1
  let raw := [(0, jout * s)] ++ (if 1 < s then [(1, jout)] else []) ++ (if v.scalePass then [(2, jout)] else [])
    ++ (List.range (v.rounds blocks.length nb)).map fun r => (3, roundJobs along across r)
  let phases := (raw.foldl (fun (acc : List PPhase × Nat) x => (acc.1 ++ [⟨x.1, acc.2, x.2⟩], acc.2 + x.2)) ([], 0)).1
  { s := s, kp := kp, lc := lc, nb := nb, blocks := blocks, phases := phases, cur := 0,
    wsBytes := v.workspace s jout, anchor := v.anchor.toInt, pid := pid, gen := gen }

/-- The number of jobs of a plan. -/
def Plan.jobs (p : Plan) : Nat := (p.phases.map (·.jobs)).sum

/-- The phase of a job index. -/
def Plan.phaseOf (p : Plan) (j : Nat) : Option PPhase := p.phases.find? fun x => x.first ≤ j && j < x.first + x.jobs

/-- The mapping of R257 over mbk × nbk blocks in a batch index, from the job's index in its phase. -/
def mapIndex (vo s mbk nbk j : Nat) : Nat × Nat × Nat × Nat :=
  let mbk := max mbk 1
  let nbk := max nbk 1
  let pw := 2 ^ bits vo 3 4
  let r := j / s
  let b := r / (mbk * nbk)
  let r := r % (mbk * nbk)
  if bits vo 1 2 = 0 then
    let pi := r / (pw * nbk)
    let w := r % (pw * nbk)
    let rows := min pw (mbk - pi * pw)
    (j % s, b, pi * pw + w % rows, w / rows)
  else
    let pi := r / (pw * mbk)
    let w := r % (pw * mbk)
    let cols := min pw (nbk - pi * pw)
    (j % s, b, w / cols, pi * pw + w % cols)

/-- The part and block of a job (R257): p, batch, block row and block column. -/
def Plan.mapJob (pl : Plan) (vo : Nat) (ph : PPhase) (j : Nat) : Nat × Nat × Nat × Nat :=
  mapIndex vo (if ph.kind = 0 then pl.s else 1) pl.blocks.length pl.nb (j - ph.first)

/-! ### Jobs -/

/-- What a job does: bits written (bit address, width, value), work kept, the report, the trap met, and whether a word failed the residue check
of its drain (R139). `read` counts the bytes that it reads from the workspace (R98, R304). -/
structure JobRes where
  wr : List (Nat × Nat × Nat) := []
  work : Option Work := none
  rep : Rep := {}
  trap : Nat := 0
  mism : Bool := false
  read : Nat := 0
deriving DecidableEq, Repr

/-- The positions of a block: rows and columns within the extents (R144, R243). -/
def Plan.positions (p : Plan) (v : Env) (mb nb cols : Nat) : List Nat × List Nat :=
  let (m0, me) := p.blocks.getD mb (0, 0)
  let jc := (jobShape v.opc v.kctl).2
  ((List.range me).map (m0 + ·), (List.range (min jc (cols - jc * nb))).map (jc * nb + ·))

/-- Write FP32 values of a block, given by position, with output blocks of at most 64 elements (R93 to R96). -/
def Env.emitScaled (v : Env) (bi : Nat) (rows cols : List Nat) (ys : List ((Nat × Nat) × Nat)) : JobRes :=
  rows.foldl (fun (acc : JobRes) m =>
    (v.scaleRuns (v.so.size 0) cols).foldl (fun (acc : JobRes) g =>
      let yb := (ys.filter fun y => y.1.1 = m && g.contains y.1.2).map fun y => (y.1.2, y.2)
      let (sb, els, r) := v.quant bi m yb (amaxOf (yb.map Prod.snd))
      { acc with wr := acc.wr ++ [(8 * v.scaleAddr bi m (g.headD 0), 8, sb)]
                   ++ (yb.zip els).map (fun z => (v.o.bitAddr (v.outTuple bi m z.1.1), v.o.width, z.2)),
                 rep := acc.rep.join r }) acc) {}

/-- The partial amax that a job leaves for the scale pass: one for each row and each output block that it touches, a NaN where it met one or
an infinity (R248). Such a block holds 128 elements or more, so that a job touches one of a row. -/
def Env.partAmax (v : Env) (rows cols : List Nat) (ys : List ((Nat × Nat) × Nat)) : List (BitVec 32) :=
  rows.flatMap fun m => (v.scaleRuns 128 cols).map fun g =>
    BitVec.ofNat 32 ((amaxOf ((ys.filter fun y => y.1.1 = m && g.contains y.1.2).map Prod.snd)).getD 0x7FC00000)

/-- What a job leaves for a scale pass (R248): its FP32 values, their partial amax, and its lists. -/
def Env.leaveVals (v : Env) (rows cols : List Nat) (ys : List ((Nat × Nat) × Nat)) (l : List (List KEnt)) : Work :=
  .vals (ys.map fun y => BitVec.ofNat 32 y.2) (v.partAmax rows cols ys) l

/-- What a job writes into the workspace in bytes (R248, R250): 32 for a word, 4 for an FP32 value or a partial amax, 8 for a list entry. -/
def Work.bytes : Work → Nat
  | .words w => 32 * w.length
  | .vals v a l => 4 * (v.length + a.length) + 8 * (l.map List.length).sum
  | .lists l => 8 * (l.map List.length).sum
  | .record .. => 0

/-- The lists of a job's work. -/
def Work.keys : Work → List (List KEnt)
  | .lists l => l
  | .vals _ _ l => l
  | .words _ | .record .. => []

/-- Write finished words or FP32 values of a block: elements, block scales and top-k lists where this phase writes them. The rounding of a fused
key to FP32 (R178) raises its flags too (R91). -/
def Env.emit (v : Env) (bi : Nat) (rows cols : List Nat) (ws : List LWord) : JobRes :=
  let pos := rows.flatMap fun m => cols.map fun n => (m, n)
  let cells := pos.zip ws
  let rw := (ws.map repWord).foldl Rep.join {}
  let ys := cells.map fun x => (x.1, v.epi bi x.1.1 x.1.2 x.2)
  let lists : List (List KEnt) :=
    if bit v.kctl 9 then cols.map fun n => (ys.filter (·.1.2 = n)).map fun y => (keyOf y.2.1, BitVec.ofNat 32 y.1.1)
    else rows.map fun m => (ys.filter (·.1.1 = m)).map fun y => (keyOf y.2.1, BitVec.ofNat 32 y.1.2)
  let keyed := if v.tke then lists.map fun l => kTake v.kctl (pow2Up (bits v.kctl 0 9)) l else []
  let y32 := ys.map fun y => (y.1, y.2.1)
  let ry := (ys.map (·.2.2)).foldl Rep.join rw
  if v.scalePass then { work := some (v.leaveVals rows cols y32 keyed), rep := ry }
  else
    let work := if v.tke then some (.lists keyed) else none
    if v.so.blk ≠ 0 then
      let r := v.emitScaled bi rows cols y32
      { r with rep := ry.join r.rep, work := work }
    else
      let fs := cells.map fun x => (x.1, v.final bi x.1.1 x.1.2 x.2)
      { wr := fs.map fun x => (v.o.bitAddr (v.outTuple bi x.1.1 x.1.2), v.o.width, x.2.1),
        rep := (fs.map (·.2.2)).foldl Rep.join (if v.tke then ry else {}), work := work }

/-- One element of an EWISE (R198): the exact result of the operation, rounded once to the output; where on-the-fly scales follow, its FP32 value
(R93). For an operation other than a conversion of an FP32 element the spec does not say how that first rounding goes: to the nearest, without
saturation (log entry 122). -/
def Env.ewise (v : Env) (bi m n : Nat) : Nat × Rep × Nat :=
  let t := n :: m :: batchTuple v.o bi
  let val (d : Desc) (sc : Bsd) : Val × Bool :=
    let x := readEl v.m d t
    let y := scaled (elVal d.fmt x) sc.sfmt (sc.byte v.m 3 (d.count 1) (d.count 0) bi m n)
    (if sc.l2 then Val.mul y sc.second else y, match fmtOf d.fmt with | some f => isSnan f x | none => false)
  let op := if v.sub = 0x12 then 9 else v.sub
  let two := op ≤ 5 ∨ op = 7 ∨ op = 8
  let computed := if v.a.fmt = 0xB ∨ (two ∧ v.b.fmt = 0xB) ∨ (op = 4 ∧ v.e.fmt = 0xB) then 64 else 32
  let a := val v.a v.sa
  let b := if two then val v.b v.sb else (.fin false 0 1 0, false)
  let c := if op = 4 then val v.e {} else (.fin false 0 1 0, false)
  if v.sub = 0x12 ∧ v.a.fmt = v.o.fmt ∧ !v.sa.on ∧ !v.so.on then (readEl v.m v.a t, {}, 0)
  else
    let rnd := bits v.cvt 0 3
    let (x, r) := vecExact op rnd a.1 b.1 c.1 (a.2 || b.2 || c.2)
    if v.so.blk ≠ 0 then
      let y := convert fp32 0 false 0 x
      (0, r.join (repVec op computed fp32 y), y.enc)
    else match fmtOf v.o.fmt with
      | none => (0, r, 0)
      | some f =>
        let y := convert f rnd (bit v.cvt 3) (if rnd = 2 then v.draw bi m n 0xFFFFFFFF else 0) x
        (y.enc, r.join (repVec op computed f y), 0)

/-- The scale-pass job of a block (R248): the amax of an output block is the unsigned maximum of the partial amax of every job that touches
it in the row. -/
def Env.scaleJob (v : Env) (p : Plan) (vo : Nat) (work : Tbl Work) (bi mb nb : Nat) (cols : Nat) : JobRes :=
  let src := (p.phases.filter fun x => x.kind ≤ 1).getLast?.getD ⟨0, 0, 0⟩
  let (rows, cs) := p.positions v mb nb cols
  let of (nb' : Nat) : List (BitVec 32) × List (BitVec 32) :=
    match ((List.range src.jobs).map (src.first + ·)).find? fun j => p.mapJob vo src j = (0, bi, mb, nb') with
    | some j => match tget work j (.words []) with | .vals l a _ => (l, a) | _ => ([], [])
    | none => ([], [])
  let own := of nb
  let runs := v.scaleRuns 128 cs
  let single := v.opc = 0x13 && v.lv = 0
  let bs := v.so.size cols
  let parts := if single then [own.2] else ((List.range (max p.nb 1)).filter fun x => 64 * x / bs = 64 * nb / bs).map fun x => (of x).2
  (rows.zipIdx).foldl (fun (acc : JobRes) (x : Nat × Nat) =>
    let (m, i) := x
    (runs.zipIdx).foldl (fun (acc : JobRes) (y : List Nat × Nat) =>
      let (g, q) := y
      let am := (parts.map fun l => (l.getD (i * runs.length + q) 0).toNat).foldl max 0
      let yb := g.map fun n => (n, (own.1.getD (i * cs.length + (n - cs.headD 0)) 0).toNat)
      let (sb, els, r) := v.quant bi m yb (if 0x7F800000 ≤ am then none else some am)
      { acc with wr := acc.wr ++ [(8 * v.scaleAddr bi m (g.headD 0), 8, sb)]
                   ++ (yb.zip els).map (fun z => (v.o.bitAddr (v.outTuple bi m z.1.1), v.o.width, z.2)),
                 rep := acc.rep.join r }) acc) { read := 4 * (own.1.length + (parts.map List.length).sum) }

/-- The list address of list index t (R200): entries of 8 bytes, k to a list. -/
def Env.listWrites (v : Env) (t : Nat) (l : List KEnt) : List (Nat × Nat × Nat) :=
  let k := bits v.kctl 0 9
  let a := wordAt v.rx 0x1C0 + t * k * 8
  ((l.take k).zipIdx).map fun x => (8 * (a + 8 * x.2), 64, x.1.1.toNat + x.1.2.toNat <<< 32)

/-- The number of a list: the linear index of its remaining levels (R200). -/
def Env.listIndex (v : Env) (bi line : Nat) : Nat :=
  let (_, rows, cols, _) := v.shape
  line + bi * (if v.opc = 0x14 then rows else if bit v.kctl 9 then cols else rows)

/-- The lists of a block as it first forms them, over every block along the selection: final lists where one block spans it. -/
def finishLists (v : Env) (single : Bool) (bi : Nat) (lines : List Nat) (r : JobRes) : JobRes :=
  match single && v.tke, r.work with
  | true, some w => { r with wr := r.wr ++ (lines.zip w.keys).flatMap fun x => v.listWrites (v.listIndex bi x.1) x.2 }
  | _, _ => r

/-- Run one job of a plan (R245 to R249): placement-free (R3). -/
def Env.job (v : Env) (p : Plan) (vo : Nat) (work : Tbl Work) (j : Nat) : JobRes :=
  let (_, _, cols, k) := v.shape
  match p.phaseOf j with
  | none => {}
  | some ph =>
    let (part, bi, mb, nb) := p.mapJob vo ph j
    let (rs, cs) := p.positions v mb nb cols
    let single := v.rounds p.blocks.length p.nb = 0
    let lines := if bit v.kctl 9 && v.opc ≠ 0x14 then cs else rs
    match ph.kind with
    | 0 =>
      if v.opc = 0x12 then
        let els := rs.flatMap fun m => cs.map fun n => ((m, n), v.ewise bi m n)
        let rp := (els.map (·.2.2.1)).foldl Rep.join {}
        let ys := els.map fun x => (x.1, x.2.2.2)
        if v.scalePass then { work := some (v.leaveVals rs cs ys []), rep := rp }
        else if v.so.blk ≠ 0 then let r := v.emitScaled bi rs cs ys; { r with rep := rp.join r.rep }
        else { wr := els.map fun x => (v.o.bitAddr (v.outTuple bi x.1.1 x.1.2), v.o.width, x.2.1), rep := rp }
      else if v.opc = 0x14 then
        let dir := bit v.kctl 9
        let key (line q : Nat) : KEnt :=
          let x := readEl v.m v.a ((if dir then [line, q] else [q, line]) ++ batchTuple v.a bi)
          (topKey v.a.fmt x, BitVec.ofNat 32 q)
        finishLists v single bi rs { work := some (.lists (rs.map fun l => kTake v.kctl (pow2Up (bits v.kctl 0 9)) (cs.map (key l)))) }
      else
        let k0 := if p.s = 1 then 0 else part * p.kp * p.lc
        let k1 := if p.s = 1 then k else min k ((part + 1) * p.kp * p.lc)
        let sums := rs.flatMap fun m => cs.map fun n => v.sum bi m n k0 k1
        let trap := (sums.map (·.trap)).foldl max 0
        let mis := repBit 5 (sums.any (·.mis))
        let ws := faulted v.dev cs.length (sums.map (·.word))
        let mism := residueBad ws (sums.map (·.res))
        if 1 < p.s then { work := some (.words ws), trap := trap, rep := mis, mism := mism }
        else
          let r := finishLists v single bi lines (v.emit bi rs cs ws)
          { r with trap := trap, rep := r.rep.join mis, mism := mism }
    | 1 =>
      let ph0 := p.phases.headD ⟨0, 0, 0⟩
      let parts := (((List.range ph0.jobs).map (ph0.first + ·)).filter fun i =>
          let x := p.mapJob vo ph0 i; x.2 = (bi, mb, nb)).map fun i => match tget work i (.words []) with | .words l => l | _ => []
      let sums := match parts with
        | [] => []
        | f :: r => r.foldl (fun (acc : List LWord) l => (acc.zip l).map fun x => x.1.add x.2) f
      let ws := faulted v.dev cs.length sums
      { finishLists v single bi lines (v.emit bi rs cs ws) with mism := residueBad ws (sums.map fun w => carried w.val), read := 32 * (parts.map List.length).sum }
    | 2 => v.scaleJob p vo work bi mb nb cols
    | _ =>
      -- a top-k round pairs the lists of neighbouring blocks along the selection (R249); the last round writes them. Its jobs are mapped by R257
      -- over the blocks that the round leaves (log entry 106)
      let rnds := p.phases.filter (·.kind = 3)
      let rix := rnds.findIdx (·.first == ph.first)
      let src := if rix = 0 then (p.phases.filter fun x => x.kind ≤ 1).getLast?.getD ⟨0, 0, 0⟩ else rnds.getD (rix - 1) ⟨0, 0, 0⟩
      let sel := v.opc ≠ 0x14 && bit v.kctl 9
      let along := if sel then p.blocks.length else p.nb
      let n0 := cdiv along (2 ^ rix)
      let n1 := cdiv along (2 ^ (rix + 1))
      let at_ (f : PPhase) (n jj : Nat) : Nat × Nat × Nat × Nat :=
        if f.kind ≤ 1 then p.mapJob vo f jj
        else if sel then mapIndex vo 1 n p.nb (jj - f.first) else mapIndex vo 1 p.blocks.length n (jj - f.first)
      let (_, b', mbq, nbq) := at_ ph n1 j
      let (q, l') := if sel then (mbq, nbq) else (nbq, mbq)
      let srcJob (x : Nat) : Option Nat :=
        if n0 ≤ x then none
        else ((List.range src.jobs).map (src.first + ·)).find? fun jj => (at_ src n0 jj).2 = (b', if sel then (x, l') else (l', x))
      let get (x : Nat) : List (List KEnt) := match srcJob x with | some jj => (tget work jj (.lists [])).keys | none => []
      let l0 := get (2 * q)
      let l1 := get (2 * q + 1)
      let k := bits v.kctl 0 9
      let merged := (List.range (max l0.length l1.length)).map fun z =>
        kTake v.kctl (pow2Up k) ((l0.getD z [] ++ l1.getD z []).filter (·.2 ≠ 0xFFFFFFFF))
      let first := if sel then 64 * l' else (p.blocks.getD l' (0, 0)).1
      let r : JobRes := { work := some (.lists merged), read := 8 * ((l0 ++ l1).map List.length).sum }
      if n1 = 1 then { r with wr := ((merged.zipIdx).flatMap fun x => v.listWrites (v.listIndex b' (first + x.2)) x.1) } else r

end Sys2Proof.Machine
end

