-- ==== Sys2Proof/Machine/Accept.lean ====
section
/-! DEFINITION. The checks of a consumed record (R190 to R208, R213, R214) and the planner limits (R253), for every
opcode of the opcode table. -/

namespace Sys2Proof.Machine

/-! ### The opcode table (R193) -/

/-- Opcode family as a bit of CMD_FN_DIS (R234); none for an undefined opcode. -/
def famOf (op : Nat) : Option Nat :=
  match op with
  | 0x01 | 0x02 | 0x03 => some 0
  | 0x10 | 0x11 | 0x12 | 0x13 | 0x14 | 0x15 => some 1
  | 0x20 | 0x21 | 0x22 | 0x23 | 0x24 => some 2
  | 0x30 | 0x31 => some 3
  | 0x40 | 0x41 | 0x42 => some 4
  | 0x50 | 0x51 | 0x52 => some 5
  | 0x60 | 0x61 => some 6
  | 0x70 => some 7
  | _ => none

/-- MATMUL-shaped opcodes: MATMUL, GMATMUL, RUN_PROGRAM and TRACE (R195, R387). -/
def mmLike (op : Nat) : Bool := op == 0x10 || op == 0x11 || op == 0x15 || op == 0x60

/-- Header fields used, as bits: 0 nctl, 1 tid, 2 seed, 3 nrec, 4 ectl, 5 kctl, 6 cvt, 7 sub, 8 prog (R193). -/
def hdrUse (op : Nat) : Nat :=
  match op with
  | 0x01 | 0x02 | 0x03 => 0x46
  | 0x10 | 0x11 => 0x7F
  | 0x15 => 0x17F
  | 0x12 | 0x13 | 0x20 | 0x21 | 0x24 | 0x30 => 0xCF
  | 0x14 => 0x20
  | 0x22 | 0x23 => 0xC0
  | 0x31 | 0x42 | 0x50 | 0x51 | 0x52 => 0x80
  | 0x60 => 0x0F
  | 0x70 => 0x180
  | _ => 0

/-- The numerics level of a command's dither draws (R114): its nl field, and 1 for an opcode without nctl (log entry 47). -/
def nlOf (rx : List Byte) : Nat := if bit (hdrUse (rOpc rx)) 0 then bits (rNctl rx) 0 8 else 1

/-- The extension length that an opcode and sub-operation require, in 64-byte units (R193, R310, R333, R364, R387, R435,
R467). -/
def extNeed (op sub : Nat) : Nat :=
  match op with
  | 0x10 | 0x11 | 0x12 | 0x13 | 0x14 | 0x15 => 4
  | 0x30 | 0x60 => 5
  | 0x31 => if sub = 6 then 1 else 0
  | _ => 0

/-! ### Failures: status and byte offset, the first of the earliest step (R213, R236) -/

/-- Failures of the checks; statuses 0x0109 to 0x010C rise with the steps 7 to 10. -/
abbrev Fails := List (Nat × Nat)

/-- A failure where a condition holds. -/
def bad (c : Bool) (st off : Nat) : Fails := if c then [(st, off)] else []

/-- A reserved bit field of the word at an offset must be zero. -/
def resv (rx : List Byte) (off lo n : Nat) : Fails := bad (fieldAt rx off lo n ≠ 0) 0x0109 (off + lo / 8)

/-- An address field carries its address in bits [43:0] (R606). -/
def addrF (rx : List Byte) (off : Nat) : Fails := resv rx off 44 20

/-- A field that the record does not use must be zero (R195, R310): its own offset fails. -/
def unused (rx : List Byte) (off n : Nat) : Fails := bad ((slice rx off n).any (· ≠ 0)) 0x0109 off

/-- The rows of an unused block-scale descriptor with its base and strides (R195). -/
def unusedBsd (rx : List Byte) (off : Nat) : Fails :=
  unused rx off 8 ++ unused rx (off + 8) 8 ++ unused rx (off + 16) 4 ++ unused rx (off + 20) 4 ++ unused rx (off + 24) 8

/-- Bytes that no layout defines must be zero: the first byte that is not (R191). -/
def zeros (rx : List Byte) (off n : Nat) : Fails :=
  match (slice rx off n).findIdx? (· ≠ 0) with
  | some i => [(0x0109, off + i)]
  | none => []

/-- The first failure: the least status, then the least offset. -/
def firstFail (l : Fails) : Option (Nat × Nat) :=
  l.foldl (fun (a : Option (Nat × Nat)) x =>
    match a with
    | none => some x
    | some y => if x.1 < y.1 ∨ (x.1 = y.1 ∧ x.2 < y.2) then some x else a) none

/-! ### Header checks -/

/-- Reserved header bits and header fields that the opcode does not use (R190, R191, R606). -/
def hdrFails (rx : List Byte) : Fails :=
  let op := rOpc rx
  let u := hdrUse op
  let f (b : Nat) (v : Nat) (off : Nat) := bad (!bit u b && v ≠ 0) 0x0109 off
  bad (rTke rx && !bit u 5) 0x0109 1 ++ bad (op = 0x14 && !rTke rx) 0x0109 1
    ++ resv rx 0 10 6 ++ resv rx 0 48 16
    ++ f 0 (rNctl rx) 0x10 ++ f 1 (rTid rx) 0x14 ++ f 2 (rSeed rx) 0x18 ++ f 3 (rNrec rx) 0x20 ++ f 4 (rEctl rx) 0x28
    ++ f 5 (rKctl rx) 0x2C ++ bad (!rTke rx && rKctl rx ≠ 0) 0x0109 0x2C
    ++ f 6 (rCvt rx) 0x30 ++ f 7 (rSub rx) 0x31 ++ f 8 (rProg rx) 0x33
    ++ resv rx 0x30 20 4 ++ resv rx 0x30 40 24 ++ addrF rx 0x38
    ++ bad (rExtLen rx = 0 && rExt rx ≠ 0) 0x0109 0x38
    ++ (if bit u 3 then addrF rx 0x20 ++ bad (rNrec rx % 64 ≠ 0) 0x0109 0x20 else [])

/-- The numeric control word (R105, R106, R127): `ins` are the input operand formats. The failing field is the record's field nctl, as for the other
control words (R190, log entry 49). -/
def nctlFails (rx : List Byte) (ins : List Nat) : Fails :=
  let n := rNctl rx
  let am := bit n 20
  bad (bits n 21 2 = 3) 0x0109 0x10 ++ bad (bits n 25 7 ≠ 0) 0x0109 0x10
    ++ bad (am && bits n 8 12 ≠ 0) 0x0109 0x10
    ++ bad (am && ins.any fun f => f = 8 || f = 0xA || f = 0xB || f = 0x20) 0x0109 0x10
    ++ bad (ins.any (fun f => f = 0x10 || f = 0x11) && (am || bits n 8 12 ≠ 0)) 0x0109 0x10
    ++ bad (rOpc rx = 0x13 && am && ins.any fun f => !(isNarrow f || f = 9)) 0x0109 0x10

/-- The conversion control field (R83, R84). -/
def cvtFails (cvt off : Nat) (vec : Bool) : Fails :=
  bad (cvt / 16 ≠ 0 || 4 < cvt % 8 || ((cvt % 8 = 3 || cvt % 8 = 4) && !vec)) 0x0109 off

/-- The epilogue control word (R172, R173). -/
def ectlFails (e off : Nat) : Fails :=
  let fam := bits e 0 2
  bad (fam = 3) 0x0109 off ++ bad (fam ≠ 1 && bit e 2) 0x0109 off
    ++ bad (6 < bits e 3 4 || (fam ≠ 2 && bits e 3 4 ≠ 0)) 0x0109 off
    ++ bad (fam ≠ 2 && bit e 7) 0x0109 off ++ bad (fam ≠ 2 && bit e 8) 0x0109 off ++ bad (bits e 9 23 ≠ 0) 0x0109 off

/-- The top-k control word (R177). -/
def kctlFails (rx : List Byte) : Fails :=
  if rTke rx then
    bad (bits (rKctl rx) 0 9 = 0 || 256 < bits (rKctl rx) 0 9) 0x0109 0x2C ++ bad (bits (rKctl rx) 12 20 ≠ 0) 0x0109 0x2C
  else []

/-! ### Descriptor checks -/

/-- Reserved bits of a descriptor (R205), step 7. -/
def descRsv (rx : List Byte) (off : Nat) : Fails :=
  resv rx off 45 3 ++ bad (fieldAt rx off 44 1 = 0 && fieldAt rx off 48 16 ≠ 0) 0x0109 (off + 6)
    ++ bad (fieldAt rx (off + 8) 11 5 ≠ 0) 0x0109 (off + 9)

/-- The format code (R52, R53), step 8. -/
def descFmt (maint : Bool) (d : Desc) (off : Nat) : Fails :=
  bad (!isFmt d.fmt || (isInt d.fmt && !maint)) 0x010A (off + 8)

/-- R65, R68, R206, R207, step 9: of a level at or above nlev the first field that is not zero fails, its count or else its stride. -/
def descGeom (d : Desc) (off : Nat) (remOk : Bool) : Fails :=
  bad (d.nlev = 0 || 6 < d.nlev) 0x010B (off + 9) ++ bad (d.rem && !remOk) 0x010B (off + 5)
    ++ bad (d.fmt = 0x20 && d.addr % 32 ≠ 0) 0x010B off
    ++ (match (List.range 6).find? fun j => d.nlev ≤ j && (d.cnt.getD j 0 ≠ 0 || d.str.getD j 0 ≠ 0) with
        | some j => [(0x010B, off + (if d.cnt.getD j 0 ≠ 0 then 0xA else 0xE) + 9 * j)]
        | none => [])
    ++ (if d.packed then [] else
        let u := packUnit d.fmt
        let inner := (List.range 6).find? fun j => 1 < d.count j && d.stride j = 1
        match (List.range 6).find? fun j => 1 < d.count j && some j ≠ inner && d.stride j % (u : Int) ≠ 0 with
        | some j => [(0x010B, off + 0xE + 9 * j)]
        | none => [])

/-- R207, step 10: the span of a local descriptor lies in one region. -/
def descRange (c : Conf) (d : Desc) (off : Nat) : Fails := bad (!d.inRegion c) 0x010C off

/-- R197, step 9: an output names no element twice. No one field breaks the rule; the model reports the first count (log entry 49). -/
def descUniq (d : Desc) (off : Nat) : Fails := bad (!d.unique) 0x010B (off + 0xA)

/-- All checks of a descriptor in use. -/
def descAll (c : Conf) (maint remOk out : Bool) (rx : List Byte) (off : Nat) : Fails :=
  let d := parseDesc rx off
  descRsv rx off ++ descFmt maint d off ++ descGeom d off remOk ++ (if out then descUniq d off else []) ++ descRange c d off

/-- A count must equal another (R196, R198, R202): the level of the descriptor at an offset fails. -/
def cntEq (d : Desc) (off j v : Nat) : Fails := bad (d.count j ≠ v) 0x010B (off + 0xA + 9 * j)

/-- Every count of a descriptor equals another's. -/
def cntAll (d e : Desc) (off : Nat) : Fails := (List.range 6).flatMap fun j => cntEq d off j (e.count j)

/-! ### Scale checks -/

/-- The block-scale descriptor, base and strides at an offset (R75 to R79, R195), for an operand with the given role,
format, rows and columns. A fault of a field of the 8-byte descriptor reports the descriptor's own offset (log entry 49). -/
def bsdFails (rx : List Byte) (off role fmt rows cols : Nat) : Fails :=
  let b := parseBsd rx off
  bad (!b.fieldOk) 0x0109 off ++ addrF rx (off + 8) ++ resv rx (off + 16) 32 32
    ++ bad (b.on && !isNarrow fmt) 0x010A off
    ++ bad (b.on && !b.descOk role) 0x010B off
    ++ bad (b.rstr < (b.shape role rows cols).1) 0x010B (off + 16)

/-- A REDUCE input's scale descriptor seen as an EWISE operand's: the direction, the row level (R73, log entry 32). -/
def redBsd (b : Bsd) (lv : Nat) : Bsd × Nat :=
  if b.dir = 0 then ({ b with dir := if lv = 0 then 2 else 1 }, if lv = 0 then 1 else lv) else (b, 1)

/-- A REDUCE input's checks of R75 to R79. -/
def redBsdFails (rx : List Byte) (off lv : Nat) (d : Desc) : Fails :=
  let b0 := parseBsd rx off
  let (b, rl) := redBsd b0 lv
  bad (!b0.fieldOk) 0x0109 off ++ addrF rx (off + 8) ++ resv rx (off + 16) 32 32
    ++ bad (b0.on && !isNarrow d.fmt) 0x010A off
    ++ bad (b0.on && !b.descOk 3) 0x010B off
    ++ bad (b.rstr < (b.shape 3 (d.count rl) (d.count 0)).1) 0x010B (off + 16)

/-! ### Buffers named by an address alone (R208, R253) -/

/-- A buffer: offset of its address field, address, bytes. -/
abbrev Buf := Nat × Nat × Nat

/-- A scale array that a record names: its address field, its descriptor, the operand's role, rows, columns and batches, and the offsets of its
copies, one for each GMATMUL group (R78, R201). -/
structure ScArr where
  off : Nat
  b : Bsd
  role : Nat
  rows : Nat
  cols : Nat
  bc : Nat
  copies : List Nat := [0]
deriving DecidableEq, Repr

/-- The range that a scale array reaches (R253). -/
def ScArr.buf (x : ScArr) : Buf :=
  let e := x.b.extent x.role x.rows x.cols x.bc
  (x.off, x.b.base, if e = 0 then 0 else e + x.copies.getLastD 0)

/-- The rows of bytes of a scale array. -/
def ScArr.strips (x : ScArr) : List (Nat × Nat) :=
  x.copies.flatMap fun g => (x.b.strips x.role x.rows x.cols x.bc).map fun s => (s.1 + g, s.2)

/-- The input scale arrays of a compute record (R78, R253 limit 3). -/
def inScaleArrs (rx : List Byte) : List ScArr :=
  let op := rOpc rx
  let a := parseDesc rx 0x40
  let b := parseDesc rx 0x80
  let o := parseDesc rx 0xC0
  let sa := parseBsd rx 0x100
  let sb := parseBsd rx 0x120
  let bc := o.prod [2, 3, 4, 5]
  if op = 0x14 then []
  else if op = 0x13 then
    let (s, rl) := redBsd sa (rSub rx % 8)
    [{ off := 0x108, b := s, role := 3, rows := a.count rl, cols := a.count 0, bc := a.total / max 1 (a.count rl * a.count 0) }]
  else if op = 0x12 then
    [{ off := 0x108, b := sa, role := 3, rows := a.count 1, cols := a.count 0, bc := bc },
      { off := 0x128, b := sb, role := 3, rows := b.count 1, cols := b.count 0, bc := bc }]
  else
    let g := if op = 0x11 then fieldAt rx 0x1C8 0 32 else 1
    [{ off := 0x108, b := sa, role := 0, rows := o.count 1, cols := a.count 0, bc := bc },
      { off := 0x128, b := sb, role := 1, rows := a.count 0, cols := o.count 0, bc := bc,
        copies := (List.range g).map (· * wordAt rx 0x1E8) }]

/-- The input scale arrays as buffers. -/
def inScales (rx : List Byte) : List Buf := (inScaleArrs rx).map ScArr.buf

/-- The output scale array of a compute record. -/
def outScaleArr (rx : List Byte) : ScArr :=
  let o := parseDesc rx 0xC0
  { off := 0x148, b := parseBsd rx 0x140, role := 2, rows := o.count 1, cols := o.count 0,
    bc := if rOpc rx = 0x14 then 0 else o.prod [2, 3, 4, 5] }

/-- The output scale array as a buffer. -/
def outScales (rx : List Byte) : Buf := (outScaleArr rx).buf

/-- The epilogue control word of a record: TRACE's lies in its trace block (R387). -/
def epiCtl (rx : List Byte) : Nat := if rOpc rx = 0x60 then fieldAt rx 0x210 0 32 else rEctl rx

/-- The conversion control of a record. -/
def cvtCtl (rx : List Byte) : Nat := if rOpc rx = 0x60 then fieldAt rx 0x210 32 8 else rCvt rx

/-- The Serving vectors in use. -/
def vecBufs (rx : List Byte) : List Buf :=
  let e := epiCtl rx
  if mmLike (rOpc rx) && bits e 0 2 = 2 then
    let n := 4 * (parseDesc rx 0xC0).count 0
    (if bit e 7 then [(0x170, wordAt rx 0x170, n)] else []) ++ (if bit e 8 then [(0x178, wordAt rx 0x178, n)] else [])
  else []

/-- Privileged list and group table. -/
def listBufs (rx : List Byte) : List Buf :=
  (if mmLike (rOpc rx) then [(0x168, wordAt rx 0x168, 8 * fieldAt rx 0x160 0 16)] else [])
    ++ (if rOpc rx = 0x11 then [(0x1D0, wordAt rx 0x1D0, 16 * fieldAt rx 0x1C8 0 32)] else [])

/-- The number of top-k lists (R200). -/
def listCount (rx : List Byte) : Nat :=
  let kd := bit (rKctl rx) 9
  if rOpc rx = 0x14 then
    let a := parseDesc rx 0x40
    a.prod [2, 3, 4, 5] * (if kd then a.count 0 else a.count 1)
  else
    let o := parseDesc rx 0xC0
    o.prod [2, 3, 4, 5] * (if kd then o.count 0 else o.count 1)

/-- The top-k list area (R200, R253). -/
def topkBuf (rx : List Byte) : List Buf :=
  if rTke rx then [(0x1C0, wordAt rx 0x1C0, listCount rx * bits (rKctl rx) 0 9 * 8)] else []

/-- An output overlaps an input (R208): the output's own descriptor or address field fails. -/
def overlapFails (outs : List Desc) (outB : List Buf) (ins : List Desc) (inB : List Buf) (inPlace : Bool) (off : Nat) : Fails :=
  bad (outs.any fun o => ins.any (fun d => !(inPlace && o = d) && o.overlaps d) || inB.any (fun b => o.meets b.2.1 b.2.2)) 0x010B off
    ++ outB.flatMap fun x => bad (ins.any (fun d => d.meets x.2.1 x.2.2) || inB.any (fun b => rangesMeet x.2.1 x.2.2 b.2.1 b.2.2)) 0x010B x.1

/-! ### Per-family checks -/

/-- The extension of the MATMUL-shaped and other compute opcodes: unused fields zero (R195). TOPK uses no block scales: an operand A of it with a
scale descriptor is refused (log entry 93). -/
def extFails (rx : List Byte) : Fails :=
  let op := rOpc rx
  let mm := mmLike op
  let e := epiCtl rx
  let fam := if mm then bits e 0 2 else 0
  let useB := mm || (op = 0x12 && (rSub rx ≤ 5 || rSub rx = 7 || rSub rx = 8))
  let useE := (mm && fam = 1) || (op = 0x12 && rSub rx = 4)
  let z (c : Bool) (off n : Nat) := if c then [] else unused rx off n
  (if op ≠ 0x14 then [] else unusedBsd rx 0x100) ++ z useB 0x120 0x20 ++ z (op ≠ 0x14) 0x140 0x20
    ++ (if mm then resv rx 0x160 16 48 ++ addrF rx 0x168
          ++ bad (256 < fieldAt rx 0x160 0 16 || (fieldAt rx 0x160 0 16 ≠ 0 && (parseDesc rx 0xC0).fmt = 0x20)) 0x0109 0x160
        else unused rx 0x160 2 ++ unused rx 0x162 6 ++ unused rx 0x168 8)
    ++ (if fam = 2 && bit e 7 then addrF rx 0x170 else unused rx 0x170 8)
    ++ (if fam = 2 && bit e 8 then addrF rx 0x178 else unused rx 0x178 8)
    ++ z useE 0x180 0x40
    ++ (if rTke rx then addrF rx 0x1C0 else unused rx 0x1C0 8)
    ++ (if op = 0x11 then resv rx 0x1C8 32 32 ++ bad (fieldAt rx 0x1C8 0 32 = 0 || 4096 < fieldAt rx 0x1C8 0 32) 0x0109 0x1C8
          ++ addrF rx 0x1D0 else unused rx 0x1C8 4 ++ unused rx 0x1CC 4 ++ unused rx 0x1D0 8)
    ++ z (op = 0x15) 0x1D8 0x10 ++ z (op = 0x11) 0x1E8 8 ++ unused rx 0x1F0 0x10

/-- Compute opcodes and TRACE (R60, R61, R195 to R198, R208). -/
def computeFails (c : Conf) (maint : Bool) (rx : List Byte) : Fails :=
  let op := rOpc rx
  let sub := rSub rx
  let a := parseDesc rx 0x40
  let b := parseDesc rx 0x80
  let o := parseDesc rx 0xC0
  let e := parseDesc rx 0x180
  let mm := mmLike op
  let ec := epiCtl rx
  let fam := if mm then bits ec 0 2 else 0
  let useB := mm || (op = 0x12 && (sub ≤ 5 || sub = 7 || sub = 8))
  let useE := (mm && fam = 1) || (op = 0x12 && sub = 4)
  let useO := op ≠ 0x14
  let ins := [a] ++ (if useB then [b] else []) ++ (if useE then [e] else [])
  let fmts := [a.fmt] ++ (if useB then [b.fmt] else [])
  let vec := (op = 0x12 || op = 0x13) && (o.fmt = 0xA || o.fmt = 0xB)
  descAll c maint false false rx 0x40
    ++ (if useB then descAll c maint false false rx 0x80 else unused rx 0x80 0x40)
    ++ (if useO then descAll c maint false true rx 0xC0 else unused rx 0xC0 0x40)
    ++ (if useE then descAll c maint false false rx 0x180 else [])
    ++ extFails rx
    ++ (if op = 0x14 then [] else nctlFails rx (fmts ++ (if op = 0x12 && useE then [e.fmt] else [])) ++ cvtFails (cvtCtl rx) (if op = 0x60 then 0x214 else 0x30) vec)
    ++ (if mm then ectlFails ec (if op = 0x60 then 0x210 else 0x28) else [])
    ++ kctlFails rx
    ++ (if op = 0x12 then bad (!((1 ≤ sub && sub ≤ 9) || sub = 0x12)) 0x0109 0x31
          ++ bad (!isFp a.fmt) 0x010A 0x48 ++ bad (useB && !isFp b.fmt) 0x010A 0x88 ++ bad (!isFp o.fmt) 0x010A 0xC8
          ++ bad (useE && !isFp e.fmt) 0x010A 0x188
          ++ cntAll a o 0x40 ++ (if useB then cntAll b o 0x80 else []) ++ (if useE then cntAll e o 0x180 else [])
          ++ bsdFails rx 0x100 3 a.fmt (a.count 1) (a.count 0)
          ++ (if useB then bsdFails rx 0x120 3 b.fmt (b.count 1) (b.count 0) else []) else [])
    ++ (if op = 0x13 then bad (sub / 8 ≠ 0 || 5 < sub % 8) 0x0109 0x31
          ++ (List.range 6).flatMap (fun j => cntEq o 0xC0 j (if j = sub % 8 then 1 else a.count j))
          ++ redBsdFails rx 0x100 (sub % 8) a else [])
    ++ (if mm then
          bad ((op = 0x10 || op = 0x11 || op = 0x60) && !((isNarrow a.fmt && isNarrow b.fmt)
            || (a.fmt = b.fmt && (a.fmt = 8 || a.fmt = 9 || a.fmt = 0x10 || a.fmt = 0x11)))) 0x010A 0x48
          ++ bad ((a.fmt = 0x10 || a.fmt = 0x11) && !isInt o.fmt) 0x010A 0xC8
          ++ bad (useE && (!isFp e.fmt || e.fmt = 0xB)) 0x010A 0x188
          ++ cntEq b 0x80 1 (a.count 0) ++ cntEq o 0xC0 1 (a.count 1) ++ cntEq o 0xC0 0 (b.count 0)
          ++ ([2, 3, 4, 5].flatMap fun j => cntEq b 0x80 j (a.count j) ++ cntEq o 0xC0 j (a.count j))
          ++ (if useE then cntAll e o 0x180 else [])
          ++ bsdFails rx 0x100 0 a.fmt (a.count 1) (a.count 0) ++ bsdFails rx 0x120 1 b.fmt (b.count 1) (b.count 0) else [])
    ++ (if useO then bsdFails rx 0x140 2 o.fmt (o.count 1) (o.count 0) else [])
    ++ overlapFails (if useO then [o] else []) ((if useO then [outScales rx] else []) ++ topkBuf rx) ins
        (inScales rx ++ listBufs rx ++ vecBufs rx) (op = 0x12) 0xC0
    ++ (if op = 0x60 then
          addrF rx 0x200 ++ bad (wordAt rx 0x200 % 16 ≠ 0) 0x0109 0x200
          ++ bad (fieldAt rx 0x208 0 32 = 0 || 4096 < fieldAt rx 0x208 0 32) 0x0109 0x208 ++ resv rx 0x208 34 30 ++ resv rx 0x210 40 24
          ++ addrF rx 0x220 ++ bad (wordAt rx 0x220 % 16 ≠ 0) 0x0109 0x220 ++ resv rx 0x230 32 32 ++ unused rx 0x238 8
          ++ bad (bit (rNctl rx) 23 || bit (rNctl rx) 24) 0x0109 0x10 ++ bad (rNrec rx ≠ 0) 0x0109 0x20
          ++ bad ((parseBsd rx 0x140).blk ≠ 0) 0x010B 0x140 ++ bad (isInt o.fmt) 0x010A 0xC8
        else [])

/-- A pair of formats that a copy converts (R202). -/
def copyPair (src dst : Nat) : Bool :=
  src == dst || ((isFp src || isInt src || src == 0x20) && (isFp dst || isInt dst))

/-- COPY, GATHER and SCATTER (R202, R203, R208). -/
def moveFails (c : Conf) (maint : Bool) (rx : List Byte) : Fails :=
  let op := rOpc rx
  let dOff := if op = 1 then 0x80 else 0xC0
  let a := parseDesc rx 0x40
  let o := parseDesc rx dOff
  let n := fieldAt rx 0x88 0 32
  let ix := wordAt rx 0x80
  descAll c maint true false rx 0x40 ++ descAll c maint true true rx dOff
    ++ cvtFails (rCvt rx) 0x30 false
    ++ bad (!copyPair a.fmt o.fmt) 0x010A (dOff + 8)
    ++ (if op = 1 then zeros rx 0xC0 0x40 ++ cntAll o a 0x80
        else addrF rx 0x80 ++ resv rx 0x88 32 32 ++ zeros rx 0x90 0x30
          ++ bad (op = 2 && 2 < a.nlev) 0x010B 0x49 ++ bad (op = 3 && 2 < o.nlev) 0x010B 0xC9
          ++ (if op = 2 then cntEq o 0xC0 1 n else cntEq a 0x40 1 n)
          ++ ((List.range 6).filter (· ≠ 1)).flatMap (fun j => cntEq o 0xC0 j (a.count j))
          ++ bad (n ≠ 0 && !oneRegion c ix (4 * n)) 0x010C 0x80)
    ++ overlapFails [o] [] [a] (if op = 1 then [] else [(0x80, ix, 4 * n)]) false dOff

/-- ALLREDUCE to COMBINE (R364, R365, R377). -/
def collFails (c : Conf) (maint : Bool) (rx : List Byte) : Fails :=
  let op := rOpc rx
  let i := parseDesc rx 0x40
  let o := parseDesc rx 0x80
  let fl (f : Nat) : Bool := isFp f || f = 0x20
  bad (rSub rx ≠ 0) 0x0109 0x31
    ++ descAll c maint false false rx 0x40 ++ descAll c maint false true rx 0x80
    ++ (if op = 0x23 then [] else bad (!fl i.fmt) 0x010A 0x48 ++ bad (!fl o.fmt) 0x010A 0x88)
    ++ cvtFails (rCvt rx) 0x30 false
    ++ (if op = 0x22 || op = 0x23 then [] else
        bad (bits (rNctl rx) 21 2 = 3 || bit (rNctl rx) 20 || bit (rNctl rx) 23 || bit (rNctl rx) 24 || bits (rNctl rx) 25 7 ≠ 0) 0x0109 0x10
          ++ bad (rNrec rx ≠ 0) 0x0109 0x20)
    ++ (if op = 0x23 then
          resv rx 0xC0 12 4 ++ resv rx 0xC0 28 36 ++ bad (fieldAt rx 0xC0 24 4 = 0 || 8 < fieldAt rx 0xC0 24 4) 0x0109 0xC3
          ++ addrF rx 0xC8 ++ addrF rx 0xD0 ++ zeros rx 0xD8 0x28 ++ cntEq o 0x80 0 (i.count 0)
        else resv rx 0xC0 12 52 ++ zeros rx 0xC8 0x38)
    ++ overlapFails [o] [] [i] (if op = 0x23 then [(0xC8, wordAt rx 0xC8, 8 * fieldAt rx 0xC0 24 4 * i.count 1)] else []) false 0x80

/-- Two local descriptors share a byte (R312). -/
def shareFails (l : List (Nat × Desc)) : Fails :=
  match l with
  | [] => []
  | (_, d) :: r => (r.filter fun x => x.2.overlaps d).map (fun x => (0x010B, x.1)) ++ shareFails r

/-- The block-scale descriptor of Q or of a QUANT destination (R312). -/
def quantBsd (rx : List Byte) (off : Nat) (q : Desc) : Fails :=
  let b := parseBsd rx off
  bsdFails rx off 2 q.fmt (q.count 1) (q.count 0) ++ bad (b.blk = 0 || b.blk = 7 || b.sfmt ≠ 0 || b.l2) 0x010B off

/-- The scale array of Q or of a QUANT destination, whose descriptor stands at an offset. -/
def quantArr (rx : List Byte) (off : Nat) (q : Desc) : ScArr :=
  { off := off + 8, b := parseBsd rx off, role := 2, rows := q.count 1, cols := q.count 0, bc := q.prod [2, 3, 4, 5] }

/-- OPT_UPDATE (R310 to R314). -/
def optFails (c : Conf) (maint : Bool) (rx : List Byte) : Fails :=
  let sub := rSub rx
  let p (off : Nat) : Nat := leNat (slice rx (0x1C0 + off) 4)
  let ctl := p 0x1C
  let mode := bits ctl 0 2
  let qe := bit ctl 2
  let w := parseDesc rx 0x40
  let adam := sub = 2
  let useX := mode = 1 || mode = 2
  let used : List (Nat × Bool) := [(0x40, true), (0x80, false), (0xC0, true)] ++ (if adam then [(0x100, true)] else [])
    ++ (if useX then [(0x140, true)] else []) ++ (if qe then [(0x180, true)] else [])
  let outs := (used.filter (·.2)).map fun x => (x.1, parseDesc rx x.1)
  let fm (off : Nat) : Nat := (parseDesc rx off).fmt
  let mom (f : Nat) : Bool := f = 8 || f = 9 || f = 0xA
  used.flatMap (fun x => descAll c maint false x.2 rx x.1)
    ++ (if adam then [] else unused rx 0x100 0x40) ++ (if useX then [] else unused rx 0x140 0x40) ++ (if qe then [] else unused rx 0x180 0x40)
    ++ bad (sub ≠ 1 && sub ≠ 2) 0x0109 0x31
    ++ bad (rNctl rx / 256 ≠ 0) 0x0109 0x10 ++ bad (rNrec rx ≠ 0) 0x0109 0x20
    ++ cvtFails (rCvt rx) 0x30 false ++ bad (rCvt rx % 8 = 1) 0x0109 0x30
    ++ ([0, 4, 8, 0xC, 0x10, 0x14, 0x18].flatMap fun off => bad (bits (p off) 23 8 = 255) 0x0109 (0x1C0 + off))
    ++ bad (mode = 3 || ctl / 16 ≠ 0 || (bit ctl 3 && wordAt rx 0x1E0 = 0)) 0x0109 0x1DC
    ++ addrF rx 0x1E0 ++ bad (wordAt rx 0x1E0 % 64 ≠ 0) 0x0109 0x1E0
    ++ addrF rx 0x1E8 ++ bad (wordAt rx 0x1E8 % 64 ≠ 0 || (!qe && wordAt rx 0x1E8 ≠ 0)) 0x0109 0x1E8
    ++ unused rx 0x1F0 8 ++ unused rx 0x1F8 8
    ++ (if qe then quantBsd rx 0x200 (parseDesc rx 0x180) else unusedBsd rx 0x200) ++ unused rx 0x220 0x20
    ++ bad (if mode = 2 then w.fmt ≠ 8 else w.fmt ≠ 8 && w.fmt ≠ 9) 0x010A 0x48
    ++ bad (!(mom (fm 0x80) || fm 0x80 = 0x20)) 0x010A 0x88 ++ bad (!mom (fm 0xC0)) 0x010A 0xC8
    ++ bad (adam && !mom (fm 0x100)) 0x010A 0x108 ++ bad (useX && fm 0x140 ≠ (if mode = 1 then 4 else 8)) 0x010A 0x148
    ++ bad (qe && !isNarrow (fm 0x180)) 0x010A 0x188
    ++ (used.drop 1).flatMap (fun x => cntAll (parseDesc rx x.1) w x.1)
    ++ bad (match w.bytes with | some (a, n) => !inHbm a n | none => false) 0x010B 0x40
    ++ overlapFails [] (if qe then [(quantArr rx 0x200 (parseDesc rx 0x180)).buf] else [])
        ((used.filter (·.1 ≠ 0x180)).map fun x => parseDesc rx x.1) [] false 0
    ++ shareFails outs ++ bad (outs.any fun x => x.2.overlaps (parseDesc rx 0x80)) 0x010B 0x80

/-- SCALE_UPDATE (R333 to R337). -/
def scaleFails (c : Conf) (maint : Bool) (rx : List Byte) : Fails :=
  let sub := rSub rx
  let al (off : Nat) := addrF rx off ++ bad (wordAt rx off % 64 ≠ 0) 0x0109 off
  let unit (x : Nat) : Bool := x < 0x3F800000 || x = 0x80000000
  bad (sub = 0 || 6 < sub) 0x0109 0x31 ++ al 0x40
    ++ (match sub with
      | 1 =>
        let e := sgn 16 (fieldAt rx 0x48 0 16)
        let lo := sgn 8 (fieldAt rx 0x48 16 8)
        let hi := sgn 8 (fieldAt rx 0x48 24 8)
        let dp := fieldAt rx 0x50 0 32
        bad (decide (e < lo) || decide (hi < e)) 0x0109 0x48 ++ bad (decide (lo < -126)) 0x0109 0x4A ++ bad (decide (126 < hi)) 0x0109 0x4B
          ++ bad (dp = 0 || 2 ^ 24 < dp) 0x0109 0x50 ++ resv rx 0x50 32 32
          ++ bad (!unit (fieldAt rx 0x58 0 32)) 0x0109 0x58 ++ bad (!unit (fieldAt rx 0x58 32 32)) 0x0109 0x5C ++ zeros rx 0x60 0xA0
      | 2 => zeros rx 0x48 0x38 ++ descAll c maint false false rx 0x80
          ++ bad (!(isFp (parseDesc rx 0x80).fmt || (parseDesc rx 0x80).fmt = 0x20)) 0x010A 0x88 ++ zeros rx 0xC0 0x40
      | 3 => resv rx 0x48 12 52 ++ zeros rx 0x50 0xB0
      | 4 => zeros rx 0x48 0xB8
      | 5 => bad (sgn 8 (fieldAt rx 0x48 0 8) = -128) 0x0109 0x48 ++ resv rx 0x48 12 52 ++ zeros rx 0x50 0xB0
      | 6 =>
        let a := parseDesc rx 0x80
        let q := parseDesc rx 0xC0
        al 0x48 ++ zeros rx 0x50 0x30 ++ descAll c maint false false rx 0x80 ++ descAll c maint false true rx 0xC0
          ++ quantBsd rx 0x100 q ++ zeros rx 0x120 0x20
          ++ bad (!(a.fmt = 8 || a.fmt = 9 || a.fmt = 0xA)) 0x010A 0x88 ++ bad (!isNarrow q.fmt) 0x010A 0xC8
          ++ cntAll q a 0xC0 ++ overlapFails [q] [(quantArr rx 0x100 q).buf] [a] [] false 0xC0
      | _ => [])

/-- SIGNAL, WAIT, FENCE, SNAP_BEGIN, SNAP_END, DIGEST, SEAL, LOAD_PROGRAM (R204, R226, R227, R229, R403, R435, R467). -/
def otherFails (c : Conf) (maint : Bool) (rx : List Byte) : Fails :=
  let sub := rSub rx
  match rOpc rx with
  | 0x40 => bad (1 < fieldAt rx 0x40 14 2) 0x0109 0x41 ++ resv rx 0x40 17 15
      ++ bad (fieldAt rx 0x40 16 1 = 0 && fieldAt rx 0x40 32 16 ≠ 0) 0x0109 0x44 ++ resv rx 0x40 48 16 ++ zeros rx 0x50 0xB0
  | 0x41 => resv rx 0x40 14 50 ++ zeros rx 0x50 0xB0
  | 0x42 => bad (sub / 2 ≠ 0) 0x0109 0x31 ++ zeros rx 0x40 0xC0
  | 0x50 => bad (sub ≠ 1) 0x0109 0x31 ++ resv rx 0x40 1 63 ++ addrF rx 0x48 ++ bad (wordAt rx 0x48 % 64 ≠ 0) 0x0109 0x48 ++ zeros rx 0x50 0xB0
  | 0x51 => bad (sub ≠ 1) 0x0109 0x31 ++ zeros rx 0x40 8 ++ addrF rx 0x48 ++ bad (wordAt rx 0x48 % 64 ≠ 0) 0x0109 0x48 ++ zeros rx 0x50 0xB0
  | 0x52 =>
    let ad (off : Nat) := addrF rx off ++ bad (wordAt rx off % 32 ≠ 0 || !openRange c (wordAt rx off) 32) 0x010B off
    bad (sub = 0 || 3 < sub) 0x0109 0x31 ++ descAll c maint false false rx 0x40
      ++ (if sub = 3 then resv rx 0x80 12 52 else zeros rx 0x80 8) ++ ad 0x90
      ++ (if sub = 2 then ad 0x98 else zeros rx 0x98 8) ++ zeros rx 0xA0 0x60
  | 0x61 => zeros rx 0x40 0xC0
  | 0x70 =>
    let len := fieldAt rx 0x48 0 10
    let img := wordAt rx 0x40
    bad (sub / 2 ≠ 0) 0x0109 0x31 ++ addrF rx 0x40 ++ bad (img % 64 ≠ 0) 0x0109 0x40
      ++ bad (len < 2 || 513 < len) 0x0109 0x48
      ++ bad (if bit sub 0 then 10 < fieldAt rx 0x48 10 4 else fieldAt rx 0x48 10 8 ≠ 0) 0x0109 0x49
      ++ bad (!bit sub 0 && fieldAt rx 0x48 18 1 ≠ 0) 0x0109 0x4A
      ++ resv rx 0x48 19 45 ++ zeros rx 0x50 0xB0
      ++ bad (!oneRegion c img (64 * len)) 0x010C 0x40
  | _ => []

/-- The failures of steps 7 to 10 (R213). -/
def recFails (c : Conf) (maint : Bool) (rx : List Byte) : Fails :=
  hdrFails rx ++ match famOf (rOpc rx) with
    | some 0 => moveFails c maint rx
    | some 1 => computeFails c maint rx
    | some 2 => collFails c maint rx
    | some 3 => if rOpc rx = 0x30 then optFails c maint rx else scaleFails c maint rx
    | some 6 => if rOpc rx = 0x60 then computeFails c maint rx else otherFails c maint rx
    | _ => otherFails c maint rx

/-! ### Planner limits (R253) -/

/-- The limits of R253 in order: status and aux. -/
def planLimits (c : Conf) (rx : List Byte) (vo : Nat) : Option (Nat × Nat) :=
  let v := mkEnv { cells := [], err := [] } rx 0
  let v := { v with groups := [], priv := [], ectl := epiCtl rx }
  let (bc, rows, cols, k) := v.shape
  let lc := chunkLen v.opc v.a.fmt v.b.fmt
  let kc := cdiv k lc
  let kmax := if bits vo 16 4 = 0 then 0 else 2 ^ (bits vo 16 4 + 4)
  let scap := if kmax = 0 then 1 else cdiv kc kmax
  let may := v.opc = 0x10 || v.opc = 0x11 || v.opc = 0x13
  let s := if !may || kc = 0 then 1 else max scap (if bits vo 7 2 = 2 then bits vo 9 7 else 1)
  let js := jobShape v.opc v.kctl
  let mb := if v.opc = 0x11 then cdiv rows js.1 + fieldAt rx 0x1C8 0 32 - 1 else cdiv rows js.1
  let nb := if v.opc = 0x14 then max 1 (cdiv cols js.2) else cdiv cols js.2
  let jout := if v.opc = 0x60 then fieldAt rx 0x208 0 32 else bc * mb * nb
  let along := if v.opc ≠ 0x14 && bit v.kctl 9 then mb else nb
  let rnds := ((List.range (v.rounds mb nb)).map fun r => roundJobs along (jout / max along 1) r).sum
  let jobs := jout * s + (if 1 < s then jout else 0) + (if v.scalePass then jout else 0) + rnds
  let ws := if v.opc = 0x60 then 0 else v.workspace s jout
  let out (b : Buf) : Bool := b.2.2 ≠ 0 && !oneRegion c b.2.1 b.2.2
  if !bit vo 0 then some (0x0203, 0)
  else if 2 ^ 24 < bc then some (0x0201, 2)
  else if (inScales rx).any out then some (0x0201, 3)
  else if out (outScales rx) then some (0x0201, 4)
  else if ((listBufs rx).filter (·.1 = 0x168)).any out then some (0x0201, 5)
  else if ((listBufs rx).filter (·.1 = 0x1D0)).any out then some (0x0201, 6)
  else if (vecBufs rx).any out then some (0x0201, 7)
  else if (topkBuf rx).any out then some (0x0201, 8)
  else if 2 ^ 32 - 1 < jobs then some (0x0204, 0)
  else if c.wsCeil * 0x100000 < ws then some (0x0202, sat 0xFFFFFFFF (cdiv ws 1024))
  else none

/-! ### The order of R213 -/

/-- What acceptance decides. -/
inductive Verdict where
  | accept
  | duplicate
  | refuse (st : Status) (foff aux : Nat)
deriving DecidableEq, Repr

/-- A stream. -/
def strmOf (s : State) (st : Nat) : Stream := tget s.cmd.streams st {}

/-- Change a stream. -/
def modStrm (s : State) (st : Nat) (f : Stream → Stream) : State :=
  { s with cmd := { s.cmd with streams := tmod s.cmd.streams st {} f } }

/-- Serving class (R188). -/
def serving (x : Stream) : Bool := bit x.cfg.toNat 0

/-- Escorted level (R188). -/
def escorted (x : Stream) : Bool := bit x.cfg.toNat 1

/-- The value of the visit-order entry bound to a stream (R255, R256). -/
def voOf (s : State) (e : Nat) : W64 := if e = 0 then 0x1200019 else tget s.til.vo e 0

/-- The visit-order value bound to a stream. -/
def voBound (s : State) (st : Nat) : W64 := voOf s (tget s.til.bind st 0).toNat

/-- The journal entry that holds a sequence number (R214). -/
def entryAt (x : Stream) (q : W64) : Option Entry := x.journal.find? fun e => !e.refused && e.seq = q

/-- The running image carries a numerics level (R4, R407). -/
def nlCarried (s : State) (l : Nat) : Bool := bit (leNat (nlMask s)) l

/-- MAINTENANCE for a record that is checked now: once leaving is asked for, records are checked as in SERVICE (R508). -/
def inMaint (s : State) : Bool := s.cfg.st = .maintenance && s.cfg.maintReq ≠ 2

/-- The states in which a running job may write INT formats (R61, R154): MAINTENANCE, also while a leave is pending (R508), and SELFTEST. -/
def intState (s : State) : Bool := s.cfg.st = .maintenance || s.cfg.st = .selftest

/-- An opcode defined and permitted in the class and the device state (R193, R204), step 3. -/
def opPermitted (s : State) (x : Stream) (r : List Byte) : Bool :=
  match famOf (rOpc r) with
  | none => false
  | some f => !(f = 3 && serving x) && !(rOpc r = 0x70 && bit (rSub r) 0 && !inMaint s)

/-- Decide a consumed record by the order of R213. `ext` is its extension, none where R192 fails; `owner` says that the pusher
owns the stream. -/
def decideRec (s : State) (st : Nat) (r : List Byte) (ext : Option (List Byte)) (owner : Bool) : Verdict :=
  let x := strmOf s st
  let rx := r ++ ext.getD []
  let q := rSeq r
  let maint := inMaint s
  if !x.opened || x.closing || rStream r ≠ st || !owner then .refuse 0x0101 0 0
  else if x.nseq < q then .refuse 0x0102 0 0
  else if q < x.nseq then
    match entryAt x q with
    | some e => if e.bytes = r && e.ext = ext.getD [] then .duplicate else .refuse 0x0103 0 0
    | none => .refuse 0x0104 0 0
  else if !opPermitted s x r then .refuse 0x0105 0 0
  else if match famOf (rOpc r) with | some f => f ≠ 4 && bit s.cmd.fnDis.toNat f | none => false then .refuse 0x0106 0 0
  else if ext.isNone then .refuse 0x0108 0 0
  else if bit (hdrUse (rOpc r)) 0 && !nlCarried s (rNctl r % 256) then .refuse 0x0107 0 0
  else match firstFail (recFails s.cfg.conf maint rx) with
    | some (f, o) => .refuse (BitVec.ofNat 16 f) o 0
    | none =>
      let fam := if mmLike (rOpc r) then bits (epiCtl rx) 0 2 else 0
      if (fam = 1 && serving x) || (fam = 2 && !serving x) then .refuse 0x010D 0 0
      else match (if famOf (rOpc r) = some 1 || rOpc r = 0x60 then planLimits s.cfg.conf rx (voBound s st).toNat else none) with
        | some (f, a) => .refuse (BitVec.ofNat 16 f) 0 a
        | none => if escorted x && !x.escOk then .refuse 0x010E 0 0 else .accept

end Sys2Proof.Machine
end

