-- ==== Sys2Proof/Machine/Net.lean ====
section
/-! DEFINITION. Sending on Scezer Link: flits, the replay buffer and credits (R343 to R349), transactions, end-to-end
numbers and planes (R352 to R356). -/

namespace Sys2Proof.Machine

/-! ### Flits (R344, R345) -/

/-- One step of CRC-64 ECMA-182, most significant bit first. -/
def crcStep (c : Nat) (b : Bool) : Nat :=
  let f := bit c 63 != b
  let c := (c * 2) % 2 ^ 64
  if f then c ^^^ 0x42F0E1EBA9EA3693 else c

/-- CRC-64 of some bytes: initial value and final XOR all ones (R344). -/
def crc64 (l : List Byte) : Nat :=
  (l.foldl (fun c x => (List.range 8).foldl (fun c i => crcStep c (bit x.toNat (7 - i))) c) (2 ^ 64 - 1)) ^^^ (2 ^ 64 - 1)

/-- A flit from its header word and payload, padded to 624 bytes. -/
def mkFlit (h : Nat) (payload : List Byte) : List Byte :=
  let body := natLe 8 h ++ slice payload 0 624
  body ++ natLe 8 (crc64 body)

/-- The header word of a flit (R345). -/
def flitHdr (ftype vc : Nat) (sot eot : Bool) (fseq aseq cvc ccnt : Nat) : Nat :=
  ftype + vc <<< 4 + (b2n sot) <<< 6 + (b2n eot) <<< 7 + (fseq % 4096) <<< 8 + (aseq % 4096) <<< 20 + (cvc % 4) <<< 32
    + (ccnt % 4096) <<< 34

/-- Header fields of a received flit. -/
def flitField (l : List Byte) (lo n : Nat) : Nat := fieldAt l 0 lo n

/-- The sequence number of the last data flit received in order (R345). -/
def Port.aseq (p : Port) : Nat := (p.rxSeq + 4095) % 4096

/-- Add to a list of four counters. -/
def bump4 (l : List Nat) (i n : Nat) : List Nat := (List.range 4).map fun j => if j = i then (nth l j + n) % 4096 else nth l j

/-! ### Codewords (R340, R343) -/

/-- The generator polynomial of the Reed-Solomon (544,514) code times α^b, for b from 0 to 9: 30 coefficients of 10 bits, that of x^0 lowest (log
entry 111). -/
def rsGen : List Nat :=
  [0x8fe282ece68a0011b235468f99448417ad07bd81eb9f7dcd69c5262305881fcb927880d0a0b,
   0x1dc595d9cc16402360638d1f22ad082f1a9f7b02d57eebbed2884cd60b103f9724f100a341f,
   0x3b8b2bb3982c8046c0c6187e455a105e352ed60da8fd575dad12d9ac12297f2e49e20044c3e,
   0x771647473959008d818c30bc1ab029bc2add8c1353fa3ebb5a25b348045bfe1c13e4098987c,
   0xee2c8e8a7bb2010b27186138b544527a553b3c26a7b4fd56bd4b26102cb6fe7827c812114f8,
   0xde599d34ff6642066e39c231fa88a4f4aa665c4c4d697a8d73960cb0596cfef0df9024229f0,
   0xbef32a4dfecc840cd87b8663753548eb545cb8989a92753ee62e5960b2d8ffe13f0448453e0,
   0x7fe6d4bffc9b480994f60ec67a6a90d4e8a955303764ea79c55cb2c161b9fdc2fe2c908a3c9,
   0xff8d397bf134d0030dec1d8ce4f529abd1d28e606e8954d78ab92512c372f9c5ec7d201679b,
   0xfd5a62d7eb69a0061bd83b19c9ea5255e3a518c9dd12a9ab1d704ab582edf1cbc8de402cb3f]

/-- A field element times the generator polynomial. -/
def rsMul (f : Nat) : Nat := (rsGen.zipIdx).foldl (fun a x => if bit f x.2 then a ^^^ x.1 else a) 0

/-- The message of a codeword (R343): 0b1010, the codeword count, the lane-map generation and the flit. -/
def cwMessage (cnt gen : Nat) (f : List Byte) : Nat := 0xA + (cnt % 4096) <<< 4 + (gen % 16) <<< 16 + leNat f <<< 20

/-- The remainder of a message by the generator polynomial: its 30 check symbols, the last one sent lowest. -/
def rsCheck (m : Nat) : Nat :=
  (List.range 514).foldl (fun r i => (r <<< 10) % 2 ^ 300 ^^^ rsMul (r >>> 290 ^^^ bits m (10 * i) 10)) 0

/-- The 544 symbols of the codeword of a message, symbol i at bit 10i (R343). -/
def rsEncode (m : Nat) : Nat :=
  let r := rsCheck m
  (List.range 30).foldl (fun c j => c + bits r (10 * (29 - j)) 10 <<< (10 * (514 + j))) m

/-- Symbol i of a codeword travels on logical lane i mod 8, which the lane map gives a physical lane (R340, R343). -/
def onLanes (map : List Nat) (cw : Nat) : List (Nat × List Nat) :=
  (List.range 8).map fun l => (nth map l, (List.range 68).map fun i => bits cw (10 * (8 * i + l)) 10)

/-- A flit as a port's lanes carry it. -/
def Port.codeword (q : Port) (f : List Byte) : List (Nat × List Nat) := onLanes q.map (rsEncode (cwMessage q.cwCnt q.gen.toNat f))

/-- Put a flit on the wire of a port as the next codeword. -/
def wire (s : State) (p : Nat) (f : List Byte) : State :=
  modPort { s with out := { s.out with wire := s.out.wire ++ [(p, (portOf s p).codeword f)] } } p fun q => { q with cwCnt := q.cwCnt + 1 }

/-- A port sends a flit that is not a data flit. -/
def sendCtl (s : State) (p ftype fseq : Nat) (payload : List Byte) : State :=
  let q := portOf s p
  let cvc := q.cwCnt % 4
  wire s p (mkFlit (flitHdr ftype 0 false false fseq q.aseq cvc (nth q.freed cvc)) payload)

/-- Whether a channel has credit (R348) and the replay buffer room (R346). -/
def canSend (q : Port) (vc : Nat) : Bool :=
  q.st = 2 && q.replay.length < 2048 && (nth q.sent vc + 4096 - nth q.ack vc) % 4096 < nth q.cv vc

/-- Send the waiting data flits that have credit, oldest first on each channel. -/
def pump (p : Nat) : Nat → State → State
  | 0, s => s
  | n + 1, s =>
    let q := portOf s p
    match q.waitq.findIdx? fun w => canSend q w.1 with
    | none => s
    | some i =>
      match q.waitq[i]? with
      | none => s
      | some (vc, sot, eot, d) =>
        let f := mkFlit (flitHdr 1 vc sot eot q.txSeq q.aseq vc (nth q.freed vc)) d
        let s := modPort s p fun q =>
          { q with waitq := q.waitq.eraseIdx i, replay := q.replay ++ [(q.txSeq, vc + 4 * b2n sot + 8 * b2n eot, d)], txSeq := (q.txSeq + 1) % 4096,
                   sent := bump4 q.sent vc 1, tx := sat (2 ^ 64 - 1) (q.tx + 1) }
        pump p n (wire s p f)

/-- Let a port send what it can. -/
def pumpPort (s : State) (p : Nat) : State := pump p (portOf s p).waitq.length s

/-! ### Transactions (R353) -/

/-- The 32-byte header and the body. -/
def txnBytes (t : Txn) : List Byte :=
  [t.ttype, BitVec.ofNat 8 t.vc.toNat] ++ natLe 2 t.tlen.toNat ++ natLe 2 t.src.toNat ++ natLe 2 t.dst.toNat ++ natLe 4 t.eseq.toNat
    ++ natLe 4 t.inc.toNat ++ natLe 8 t.a.toNat ++ natLe 8 t.b.toNat ++ t.body

/-- The payloads of a transaction's flits with their sot and eot. -/
def cutFlits (l : List Byte) : List (Bool × Bool × List Byte) :=
  let n := max 1 (cdiv l.length 624)
  (List.range n).map fun i => (i = 0, i + 1 = n, slice l (624 * i) 624)

/-- State with a node. -/
def peerOf (s : State) (n : Nat) : Peer := tget s.lnk.peers n {}

/-- Change the state with a node. -/
def modPeer (s : State) (n : Nat) (f : Peer → Peer) : State :=
  { s with lnk := { s.lnk with peers := tmod s.lnk.peers n {} f } }

/-- The ports on which a node can be reached: up here and, once its HELLO has come, up there (R355, R356). -/
def planesTo (s : State) (n : Nat) : List Nat :=
  let pe := peerOf s n
  (List.range 8).filter fun p => (portOf s p).st = 2 && (!pe.known || bit pe.ports.toNat p)

/-- The first plane of a rising list at or after plane p, cyclically. -/
def planeFrom (l : List Nat) (p : Nat) : Option Nat :=
  match l.find? (p ≤ ·) with | some x => some x | none => l.head?

/-- Give a transaction to the port of a plane. -/
def emitOn (s : State) (p : Nat) (t : Txn) : State :=
  let t := { t with plane := Fin.ofNat 8 p }
  let s := { s with out := { s.out with link := s.out.link ++ [t] } }
  let fl := (cutFlits (txnBytes t)).map fun f => (t.vc.toNat, f.1, f.2.1, f.2.2)
  pumpPort (modPort s p fun q => { q with waitq := q.waitq ++ fl }) p

/-- Send a transaction towards its node on the first plane at or after one; nothing leaves while no plane is up. -/
def emit (s : State) (t : Txn) (p0 : Nat) : State :=
  match planeFrom (planesTo s t.dst.toNat) p0 with
  | none => s
  | some p => emitOn s p t

/-- A transaction of this device. -/
def mkTxn (s : State) (ty vc : Nat) (dst : NodeId) (eseq : BitVec 32) (a b : W64) (body : List Byte) : Txn :=
  { ttype := BitVec.ofNat 8 ty, vc := BitVec.ofNat 2 vc, tlen := BitVec.ofNat 16 (32 + body.length), src := s.cfg.conf.node, dst := dst,
    eseq := eseq, inc := incarnation s, a := a, b := b, body := body, plane := 0 }

/-- HELLO (R354, R356). -/
def sendHello (s : State) (dst : NodeId) : State :=
  let c := s.cfg.conf
  let a := c.feed.toNat + c.domain.toNat <<< 16 + (portMask s (·.st = 2)) <<< 32
  let s := modPeer s dst.toNat fun p => { p with hello := true }
  emit s (mkTxn s 0x10 0 dst 0 (BitVec.ofNat 64 a) 0 []) 0

/-- HELLO to every node with which end-to-end state is held (R356). -/
def helloAll (s : State) : State := s.lnk.peers.foldl (fun s e => sendHello s (BitVec.ofNat 16 e.1)) s

/-- Numbered transactions unanswered at a node. -/
def unanswered (s : State) (dst : NodeId) : List Sent := s.lnk.sent.filter (·.txn.dst = dst)

/-- Send a numbered transaction (R355, R356): HELLO first; beyond 1,024 unanswered it waits. `pref` is the plane
preferred. -/
def sendOn (s : State) (pref ty vc : Nat) (dst : NodeId) (a b : W64) (body : List Byte) (why : Purpose) : State :=
  let s := if (peerOf s dst.toNat).hello then s else sendHello s dst
  let e := (peerOf s dst.toNat).next
  let t := mkTxn s ty vc dst e a b body
  let room := (unanswered s dst).length < 1024
  let t := { t with plane := Fin.ofNat 8 ((planeFrom (planesTo s dst.toNat) pref).getD pref) }
  let s := modPeer s dst.toNat fun p => { p with next := p.next + 1 }
  let s := { s with lnk := { s.lnk with sent := s.lnk.sent ++ [⟨t, why, s.clock⟩] } }
  if room then emit s t pref else s

/-- Send a numbered transaction on any plane. -/
def sendTxn (s : State) (ty vc : Nat) (dst : NodeId) (a b : W64) (body : List Byte) (why : Purpose) : State :=
  sendOn s 0 ty vc dst a b body why

/-- Send a transaction that is not itself answered (R355), after a HELLO where none has gone to its node (R356). -/
def sendAnswer (s : State) (t : Txn) : State :=
  let s := if (peerOf s t.dst.toNat).hello then s else sendHello s t.dst
  emit s t 0

/-- An answer takes its place among the numbered transactions to its node (R355). -/
def numbered (s : State) (t : Txn) : State × Txn :=
  (modPeer s t.dst.toNat fun p => { p with next := p.next + 1 }, { t with eseq := (peerOf s t.dst.toNat).next })

end Sys2Proof.Machine
end

