-- ==== Sys2Proof/Machine/Streams.lean ====
section
/-! DEFINITION. Streams: consumption, acceptance and refusal (R194, R210, R213 to R218), the ranges a command names (R223,
R275, R297), completion (R236 to R240). -/

namespace Sys2Proof.Machine

/-- The fields of CMD_STRM_CFG (R188); its reserved bits read as zero (R22). -/
abbrev strmMask : W64 := 0xFFFF07FFFF07

/-! ### Queue slots and extensions -/

/-- A list of words of retained memory or of an extension is read: what can be corrected is, and the words that stay
uncorrectable are counted and reported (R192, R279, R305, R607). -/
def readWords (s : State) (a n : Nat) : State × List Nat :=
  let ws := errWords s.mem a n
  let c := s.cfg.conf
  let stays (w : Nat) : Bool := badWord s.mem w && !(w * 32 < 0x80000000 && rgnOf c (w * 32) = 3 && !badWord s.mem (second c (w * 32) / 32))
  let s' := ws.foldl (fun t w => if stays w && w * 32 < 0x80000000 && rgnOf c (w * 32) = 3 then countUe (noteUe t w 0) w else meetWord t w) s
  (s', ws.filter stays)

/-- The address of the slot of a free-running index (R209). -/
def slotAddr (x : Stream) (i : BitVec 32) : Nat := x.qbase + 256 * (i.toNat % 2 ^ bits x.cfg.toNat 8 4)

/-- The opcode and sub-operation as a row of the opcode table reads them: an undefined sub belongs to the first row of
its opcode. -/
def rowKey (r : List Byte) : Nat :=
  let op := rOpc r
  let sub := rSub r
  if op = 0x31 then 0x3100 + (if 2 ≤ sub && sub ≤ 6 then sub else 1)
  else if op = 0x52 then 0x5200 + (if sub = 2 || sub = 3 then sub else 1)
  else if op = 0x70 then 0x7000 + sub % 2
  else op * 256

/-- The extension as acceptance reads it (R192): none where the address, the length or a word fails. -/
def readExt (s : State) (r : List Byte) : State × Option (List Byte) :=
  let n := extNeed (rOpc r) (rSub r)
  if rExtLen r ≠ n then (s, none)
  else if n = 0 then (s, some [])
  else
    let a := rExt r % 2 ^ 44
    if a % 64 ≠ 0 || !oneRegion s.cfg.conf a (64 * n) then (s, none)
    else
      let (s, b) := readWords (tally s 5 false a (64 * n)) a (64 * n)
      match b with
      | [] => (s, some (rd s.mem a (64 * n)))
      | _ :: _ => (s, none)

/-! ### Acceptance (R215 to R217) -/

/-- The 8-byte write of nseq to the DB_AWB word (R209), held while the host cannot be written (R574). -/
def awbWrite (s : State) (st : Nat) : State :=
  let x := strmOf s st
  if x.awb = 0 then s
  else if hostReady s then hostWrite s (x.awb &&& 0xFFFFFFFFFFFFFFF8).toNat (natLe 8 x.nseq.toNat)
  else if s.cmd.awbWait.contains st then s else { s with cmd := { s.cmd with awbWait := s.cmd.awbWait ++ [st] } }

/-- nseq advances at an acceptance (R216). -/
def bumpSeq (s : State) (st : Nat) : State := awbWrite (modStrm s st fun x => { x with nseq := x.nseq + 1 }) st

/-- Add an entry at the end of the completion order (R215). -/
def pushEntry (s : State) (st : Nat) (e : Entry) : State := modStrm s st fun x => { x with journal := x.journal ++ [e] }

/-- A refusal entry (R215). -/
def refuseEntry (s : State) (st : Nat) (r : List Byte) (q : W64) (f : Status) (foff aux : Nat) : State :=
  pushEntry s st { seq := q, st := .done, refused := true, bytes := r, status := f, foff := foff, aux := BitVec.ofNat 32 aux }

/-- The shadow fraction in force for a class (R432). -/
def shadowOf (s : State) (x : Stream) : Nat :=
  if serving x then bits s.ras.shadow.toNat 3 3 else bits s.ras.shadow.toNat 0 3

/-- What acceptance captures: the visit order, the shadow fraction and a DISPATCH's expert map (R256, R376, R432). -/
def captured (s : State) (st : Nat) (e : Entry) : Entry :=
  { e with vo := voBound s st, shd := shadowOf s (strmOf s st),
           emap := if rOpc e.bytes = 0x23 then s.cfg.conf.maps.find? (·.id = fieldAt e.bytes 0xC0 16 8) else none }

/-- A record that passes every check (R216, R256, R376, R432): accepted on a Local stream, pending with its MIRROR sent on an
Escorted one. -/
def acceptRec (s : State) (st : Nat) (r ext : List Byte) : State :=
  let x := strmOf s st
  let e := captured s st { seq := rSeq r, st := if escorted x then .pending else .accepted, bytes := r, ext := ext }
  let s := pushEntry s st e
  if escorted x then sendTxn s 0x30 1 s.cfg.conf.escort (BitVec.ofNat 64 st) (rSeq r) (r ++ ext) (.mirror st (rSeq r))
  else bumpSeq s st

/-- Act on a consumed record (R213 to R216). -/
def takeRec (s : State) (st : Nat) (r : List Byte) (ext : Option (List Byte)) (owner : Bool) : State × Verdict :=
  let v := decideRec s st r ext owner
  (match v with
    | .accept => acceptRec s st r (ext.getD [])
    | .duplicate => s
    | .refuse f o a => refuseEntry s st r (rSeq r) f o a, v)

/-- Journal entries in use (R188). -/
def jUsed (x : Stream) : Nat := (x.journal.filter (!·.refused)).length

/-- A record waits unanswered at the escort (R216). -/
def hasPending (x : Stream) : Bool := x.journal.any fun e => e.st = .pending && !e.wdWait

/-- The stream's next record is consumed now (R194, R210, R218). -/
def mayConsume (s : State) (st : Nat) : Bool :=
  let x := strmOf s st
  ready s && !s.esc.adopting && x.opened && x.pi ≠ x.ci && jUsed x < 2 ^ bits x.cfg.toNat 12 4 && !hasPending x

/-- Consume the next record of a stream's queue if `want` takes its bytes and readability. -/
def consume (s : State) (st : Nat) (want : State → List Byte → Bool → Bool) : State :=
  if !mayConsume s st then s
  else
    let x := strmOf s st
    let a := slotAddr x x.ci
    let (s1, b) := readWords s a 256
    let r := rd s1.mem a 256
    if !want s r (b = []) then s
    else
      let s1 := modStrm s1 st fun x => { x with ci := x.ci + 1 }
      if b ≠ [] then
        if b.contains (a / 32) then refuseEntry s1 st (List.replicate 256 0) x.nseq 0x0110 0 0 else refuseEntry s1 st r (rSeq r) 0x0110 0 0
      else
        let (s2, ext) := readExt s1 r
        (takeRec s2 st r ext (!bit x.cfg.toNat 2)).1

/-- Consumption by the row of a key (R213). -/
def consumeRow (s : State) (st key : Nat) : State :=
  consume s st fun _ r ok => ok && famOf (rOpc r) ≠ none && rowKey r = key

/-! ### The entries of a stream -/

/-- The entry that runs for a row's key: the first running one. -/
def runningIx (x : Stream) (key : Nat) : Option Nat :=
  x.journal.findIdx? fun e => !e.refused && e.st = .running && rowKey e.bytes = key

/-- Change the entry at an index of the journal. -/
def modEntry (s : State) (st i : Nat) (f : Entry → Entry) : State :=
  modStrm s st fun x => { x with journal := (x.journal.take i) ++ ((x.journal.drop i).take 1).map f ++ x.journal.drop (i + 1) }

/-- The index of a command in the journal. -/
def entryIx (s : State) (st : Nat) (q : W64) : Option Nat := (strmOf s st).journal.findIdx? fun e => !e.refused && e.seq = q

/-- Change a command's entry. -/
def modCmd (s : State) (st : Nat) (q : W64) (f : Entry → Entry) : State :=
  match entryIx s st q with | some i => modEntry s st i f | none => s

/-- A command's entry. -/
def cmdOf (s : State) (st : Nat) (q : W64) : Option Entry := (strmOf s st).journal.find? fun e => !e.refused && e.seq = q

/-- The record followed by its extension. -/
def Entry.rx (e : Entry) : List Byte := e.bytes ++ e.ext

/-- The command ends with a status: its effects are over, and outputs that wait for their copy (R222, R286) are dropped. -/
def Entry.finish (e : Entry) (f : Status) : Entry :=
  { e with ran := true, status := f, plan := none, work := [], copies := [], late := [], stop := none, nrep := if f.toNat / 256 = 3 then 0 else e.nrep }

/-! ### The ranges a command names (R223, R275, R297) -/

/-- A local range with whether it is written. -/
structure Rng where
  a : Nat
  n : Nat
  w : Bool
deriving DecidableEq, Repr

/-- A descriptor's range. -/
def dRng (d : Desc) (w : Bool) : List Rng :=
  if d.rem then [] else match d.bytes with | some (a, n) => [⟨a, n, w⟩] | none => []

/-- A range named by an address. -/
def aRng (a n : Nat) (w : Bool) : List Rng := if n = 0 then [] else [⟨a, n, w⟩]

/-- Descriptors of a record with whether each is an output. -/
def recDescs (rx : List Byte) : List (Desc × Bool) :=
  let d (off : Nat) := parseDesc rx off
  let op := rOpc rx
  let sub := rSub rx
  let l : List (Nat × Bool) :=
    if op = 1 then [(0x40, false), (0x80, true)]
    else if op = 2 || op = 3 then [(0x40, false), (0xC0, true)]
    else if op = 0x12 then [(0x40, false), (0xC0, true)] ++ (if sub ≤ 5 || sub = 7 || sub = 8 then [(0x80, false)] else [])
      ++ (if sub = 4 then [(0x180, false)] else [])
    else if op = 0x13 then [(0x40, false), (0xC0, true)]
    else if op = 0x14 then [(0x40, false)]
    else if mmLike op then [(0x40, false), (0x80, false), (0xC0, op ≠ 0x60)] ++ (if bits (epiCtl rx) 0 2 = 1 then [(0x180, false)] else [])
    else if famOf op = some 2 then [(0x40, false), (0x80, true)]
    else if op = 0x30 then
      let ctl := leNat (slice rx 0x1DC 4)
      [(0x40, true), (0x80, false), (0xC0, true)] ++ (if sub = 2 then [(0x100, true)] else [])
        ++ (if bits ctl 0 2 = 1 || bits ctl 0 2 = 2 then [(0x140, true)] else []) ++ (if bit ctl 2 then [(0x180, true)] else [])
    else if op = 0x31 then (if sub = 2 then [(0x80, false)] else if sub = 6 then [(0x80, false), (0xC0, true)] else [])
    else if op = 0x52 then [(0x40, false)]
    else []
  l.map fun x => (d x.1, x.2)

/-- The scale array of Q or of a QUANT destination. -/
def quantScales (rx : List Byte) : List ScArr :=
  if rOpc rx = 0x30 then (if bit (leNat (slice rx 0x1DC 4)) 2 then [quantArr rx 0x200 (parseDesc rx 0x180)] else [])
  else [quantArr rx 0x100 (parseDesc rx 0xC0)]

/-- Every buffer that a record names by an address alone. -/
def recBufs (rx : List Byte) : List Rng :=
  let op := rOpc rx
  let sub := rSub rx
  let w (off : Nat) : Nat := wordAt rx off % 2 ^ 44
  let b (w : Bool) (l : List Buf) : List Rng := l.flatMap fun x => aRng x.2.1 x.2.2 w
  let nr := if bit (hdrUse op) 3 && rNrec rx ≠ 0 then aRng (w 0x20) 64 true else []
  match op with
  | 2 | 3 => aRng (w 0x80) (4 * fieldAt rx 0x88 0 32) false
  | 0x10 | 0x11 | 0x12 | 0x13 | 0x14 | 0x15 =>
    b false (inScales rx ++ listBufs rx ++ vecBufs rx) ++ b true (outScales rx :: topkBuf rx) ++ nr
  | 0x60 => b false (inScales rx ++ listBufs rx ++ vecBufs rx) ++ aRng (w 0x200) (16 * fieldAt rx 0x208 0 32) false
      ++ (if w 0x220 = 0 then [] else aRng (w 0x220) 48 false)
  | 0x23 => aRng (w 0xC8) (8 * fieldAt rx 0xC0 24 4 * (parseDesc rx 0x40).count 1) false ++ aRng (w 0xD0) (4 * (parseDesc rx 0x80).count 2) true
  | 0x30 => b true ((quantScales rx).map ScArr.buf) ++ (if w 0x1E0 = 0 then [] else aRng (w 0x1E0) 128 false)
      ++ (if bit (leNat (slice rx 0x1DC 4)) 2 then aRng (w 0x1E8) 128 true else [])
  | 0x31 => aRng (w 0x40) 128 true ++ (if sub = 6 then b true ((quantScales rx).map ScArr.buf) ++ (if w 0x48 = 0 then [] else aRng (w 0x48) 128 true) else [])
  | 0x50 | 0x51 => if w 0x48 = 0 then [] else aRng (w 0x48) 384 true
  | 0x52 => aRng (w 0x90) 32 true ++ (if sub = 2 then aRng (w 0x98) 32 false else [])
  | 0x70 => aRng (w 0x40) (64 * fieldAt rx 0x48 0 10) false
  | _ => []

/-- Every local range that a command names. -/
def namedRanges (rx : List Byte) : List Rng := (recDescs rx).flatMap (fun d => dRng d.1 d.2) ++ recBufs rx

/-- The descriptors that a command reads and writes through: operand B of a GMATMUL, the second that it names, once for each group (R201). -/
def effDescs (m : Mem) (rx : List Byte) : List (Desc × Bool) :=
  if rOpc rx = 0x11 then
    ((recDescs rx).zipIdx).flatMap fun d => if d.2 = 1 then (groupList m rx).map fun g => ({ d.1.1 with addr := g.base }, false) else [d.1]
  else recDescs rx

/-- A range lies where R275 allows. -/
def rngOpen (c : Conf) (r : Rng) : Bool := openRange c r.a r.n

/-- Every range that a command reads or writes, with the node whose memory it lies in. -/
def touched (s : State) (rx : List Byte) : List (Nat × Rng) :=
  let own := s.cfg.conf.node.toNat
  (effDescs s.mem rx).flatMap (fun d => (dRng { d.1 with rem := false } d.2).map fun r => (if d.1.rem then d.1.node else own, r))
    ++ (recBufs rx).map fun r => (own, r)

/-- Two commands conflict: one writes a byte that the other reads or writes (R223), by their ranges. -/
def conflict (x y : List (Nat × Rng)) : Bool :=
  x.any fun a => y.any fun b => a.1 = b.1 && (a.2.w || b.2.w) && rangesMeet a.2.a a.2.n b.2.a b.2.n

/-- The lowest lost address of a range (R50, R297). -/
def lostIn (s : State) (a n : Nat) : Option Nat :=
  if n = 0 then none
  else if a < 0x80000000 then
    if s.ser.up = 0xF then none
    else ((List.range ((a + n - 1) / 4096 - a / 4096 + 1)).map fun i => max a ((a / 4096 + i) * 4096)).find? (addrLost s)
  else
    let l := (((List.range 8).find? fun k => (stackOf s k).lost && rangesMeet a n (hbmBase + k * stackBytes) stackBytes).map
      fun k => max a (hbmBase + k * stackBytes)).toList
    let r := (s.mem.slots.flatMap fun x => rowWords (x.1 / 0x20000000) (x.1 % 0x20000000)).filterMap fun w =>
      if rangesMeet a n (w * 32) 32 && addrLost s (w * 32) then some (max a (w * 32)) else none
    (l ++ r).min?

/-- The lowest lost address that a command names (R297). -/
def lostNamed (s : State) (rx : List Byte) : Option Nat :=
  ((effDescs s.mem rx).flatMap (fun d => dRng d.1 d.2) ++ recBufs rx).foldl (fun (acc : Option Nat) r =>
    match acc, lostIn s r.a r.n with | some x, some y => some (min x y) | none, y => y | x, none => x) none

/-- The uncorrectable words of a range. -/
def badIn (m : Mem) (a n : Nat) : List Nat := (errWords m a n).filter (badWord m)

/-- The index list of a GATHER or SCATTER (R203). -/
def indexList (m : Mem) (rx : List Byte) : List Nat :=
  (List.range (fieldAt rx 0x88 0 32)).map fun i => leNat (rd m (wordAt rx 0x80 % 2 ^ 44 + 4 * i) 4)

/-- An output that the command reads too: every operand of OPT_UPDATE but Q. -/
def readsToo (rx : List Byte) (d : Desc) : Bool := rOpc rx = 0x30 && d ≠ parseDesc rx 0x180

/-- The tuples at which a command reads a descriptor: a GATHER reads the rows that its list names. -/
def readsAt (m : Mem) (rx : List Byte) (t : List Nat) : Bool := rOpc rx ≠ 2 || (indexList m rx).contains (t.getD 1 0)

/-- The rows of bytes of scale arrays. -/
def arrRngs (w : Bool) (l : List ScArr) : List Rng := l.flatMap fun x => x.strips.map fun s => ⟨s.1, s.2, w⟩

/-- The step records and tensor-scale entries that a command reads when it starts (R309, R315). Address 0 means none only for srec of an OPT_UPDATE
and for the step record of a QUANT (R315, R337). -/
def startRecs (rx : List Byte) : List Nat :=
  let w (off : Nat) : Nat := wordAt rx off % 2 ^ 44
  let op := rOpc rx
  let sub := rSub rx
  if op = 0x30 then [w 0x1E0].filter (· ≠ 0) ++ (if bit (leNat (slice rx 0x1DC 4)) 2 then [w 0x1E8] else [])
  else if op = 0x31 && (2 ≤ sub && sub ≤ 4 || sub = 6) then w 0x40 :: (if sub = 6 then [w 0x48].filter (· ≠ 0) else [])
  else []

/-- The bytes of the buffers that a record names by an address, with whether they are written, without the records that it reads at its start. A
scale array counts row by row. -/
def recBytes (rx : List Byte) : List Rng :=
  let op := rOpc rx
  let sub := rSub rx
  let w (off : Nat) : Nat := wordAt rx off % 2 ^ 44
  let b (w : Bool) (l : List Buf) : List Rng := l.flatMap fun x => aRng x.2.1 x.2.2 w
  match op with
  | 0x10 | 0x11 | 0x12 | 0x13 | 0x14 | 0x15 =>
    arrRngs false (inScaleArrs rx) ++ b false (listBufs rx ++ vecBufs rx) ++ arrRngs true [outScaleArr rx] ++ b true (topkBuf rx)
  | 0x60 => arrRngs false (inScaleArrs rx) ++ (recBufs rx).filter fun r => !(inScales rx).any fun x => x.2.1 = r.a && x.2.2 = r.n
  | 0x30 => arrRngs true (quantScales rx) ++ (if bit (leNat (slice rx 0x1DC 4)) 2 then aRng (w 0x1E8) 128 true else [])
  | 0x31 => aRng (w 0x40) 128 true ++ (if sub = 6 && w 0x48 ≠ 0 then aRng (w 0x48) 128 true else [])
      ++ (if sub = 6 then arrRngs true (quantScales rx) else [])
  | _ => recBufs rx

/-- The words with a listed error that a command's ranges touch, in the order in which the record names them. -/
def namedErr (m : Mem) (rx : List Byte) : List Nat :=
  (((effDescs m rx).flatMap (fun d => dRng d.1 d.2) ++ recBufs rx).flatMap fun r => errWords m r.a r.n).eraseDups

/-- A command writes a part of word w, and not all of it. -/
def partWord (m : Mem) (rx : List Byte) (w : Nat) : Bool :=
  let written (i : Nat) : Bool :=
    (effDescs m rx).any (fun d => d.2 && d.1.meets (w * 32 + i) 1) || (recBytes rx).any fun r => r.w && rangesMeet r.a r.n (w * 32 + i) 1
  (List.range 32).any written && !(List.range 32).all written

/-- A command reads word w, or writes only a part of it and so reads the rest (R66, R294). -/
def readsWord (m : Mem) (rx : List Byte) (w : Nat) : Bool :=
  let ds := effDescs m rx
  let meets (r : Rng) : Bool := rangesMeet r.a r.n (w * 32) 32
  ds.any (fun d => (!d.2 || readsToo rx d.1) && d.1.meetsAt (if d.2 then fun _ => true else readsAt m rx) (w * 32) 32)
    || (recBytes rx).any (fun r => !r.w && meets r) || partWord m rx w

/-- The first uncorrectable word that a command meets (R296). -/
def recBad (s : State) (rx : List Byte) : Option Nat :=
  ((namedErr s.mem rx).find? fun w => badWord s.mem w && readsWord s.mem rx w).map (· * 32)

/-- Reads of the ranges a command names: corrected words are written back, uncorrectable ones poisoned (R294, R295). -/
def meetNamed (s : State) (rx : List Byte) : State := meetFor s ((namedErr s.mem rx).filter (readsWord s.mem rx)) (recBad s rx)

/-- The words that a command meets, and the first that is uncorrectable. -/
def meetCmd (s : State) (rx : List Byte) : State × Option Nat := (meetNamed s rx, recBad s rx)

/-! ### Completion (R236 to R240) -/

/-- A ring. -/
def ringOf (s : State) (i : Nat) : Ring := tget s.cmd.rings i {}

/-- Change a ring. -/
def modRing (s : State) (i : Nat) (f : Ring → Ring) : State :=
  { s with cmd := { s.cmd with rings := tmod s.cmd.rings i {} f } }

/-- n_log2 of a ring. -/
def ringLog (r : Ring) : Nat := bits r.cfg.toNat 0 5

/-- The completion entry of R236, with its phase. -/
def entryBytes (st : Nat) (e : Entry) (phase : Bool) : List Byte :=
  let w0 := e.status.toNat + rTag e.bytes <<< 16 + st <<< 32 + rOpc e.bytes <<< 48 + (b2n e.refused) <<< 56
  let w3 := e.foff % 65536 + e.aux.toNat <<< 16 + (b2n phase) <<< 63
  natLe 8 w0 ++ natLe 8 e.seq.toNat ++ natLe 8 e.nrep.toNat ++ natLe 8 w3

/-- The phase bit of a free-running index: 1 on the first pass (R236). -/
def ringPhase (r : Ring) : Bool := r.tail.toNat / 2 ^ ringLog r % 2 = 0

/-- The stream is bound to a job that is in force (R467, R472). -/
def bound (s : State) (st : Nat) : Bool := match s.cfg.conf.job with | some j => j.streams.contains st | none => false

/-- A snapshot that started after the command has completed (R472): the snapshots the entry waits for are over. An adopted entry, whose snapshot is 0,
waits for none (R461). -/
def snapFree (s : State) (st : Nat) (e : Entry) : Bool :=
  !bound s st || e.refused || (match e.snap with | some k => k = 0 || k ≤ s.job.serial && s.job.held.any (fun h => k ≤ h.serial) | none => false)

/-- The seq of the last consumed completion entry of a stream (R451 DONE): one below the first entry not yet consumed. -/
def consumedSeq (x : Stream) : W64 :=
  match x.journal.find? (!·.refused) with | some e => e.seq - 1 | none => x.nseq - 1

/-- What follows the write of an entry to its ring: tail, interrupt (R239), cseq, and DONE on an Escorted stream (R453). -/
def afterEntry (s : State) (st i : Nat) (e : Entry) : State :=
  let x := strmOf s st
  let ri := bits x.cfg.toNat 16 11
  let r := ringOf s ri
  let img := entryBytes st e (ringPhase r)
  let s := modEntry s st i fun e => { e with st := .completed, slot := r.tail }
  let s := if e.refused then s else modStrm s st fun x => { x with cseq := x.cseq + 1 }
  let s := modRing s ri fun r => { r with tail := r.tail + 1, busy := false }
  let mode := bits r.cfg.toNat 8 2
  let s := if mode = 0 || (mode = 1 && rIrq e.bytes) then fire s (bits r.cfg.toNat 16 11) else s
  if escorted x && !e.refused then
    sendTxn s 0x32 1 s.cfg.conf.escort (BitVec.ofNat 64 st) e.seq (img ++ natLe 8 (consumedSeq (strmOf s st)).toNat) .keep
  else s

/-- The next entry of a stream's completion order that is not yet written. -/
def nextEntry (x : Stream) : Option (Nat × Entry) :=
  match x.journal.findIdx? fun e => e.st ≠ .completed with
  | some i => (x.journal[i]?).map fun e => (i, e)
  | none => none

/-- The entry may be written (R51, R433, R454, R472): its command is done, no withdrawal is open, its snapshot is over. -/
def entryReady (s : State) (st : Nat) (e : Entry) : Bool :=
  e.st = .done && !(e.wdWait && !e.wdDone) && snapFree s st e && !(inHold s && e.refused)

/-- The ring has room, is enabled and can be reached (R238, R574). -/
def ringRoom (s : State) (r : Ring) : Bool :=
  bit r.cfg.toNat 7 && (r.tail - r.head).toNat < 2 ^ ringLog r && !r.busy && (bit r.cfg.toNat 5 || hostReady s)

/-- Write the next completion entry of a stream (R237 to R240), once retained state is in two copies (R42). -/
def writeEntry (s : State) (st : Nat) : State :=
  let x := strmOf s st
  let ri := bits x.cfg.toNat 16 11
  let r := ringOf s ri
  match nextEntry x with
  | none => s
  | some (i, e) =>
    if !entryReady s st e || !ringRoom s r || s.ser.rebuild then s
    else
      let img := entryBytes st e (ringPhase r)
      let a := r.base.toNat + 32 * (r.tail.toNat % 2 ^ ringLog r)
      if !bit r.cfg.toNat 5 then afterEntry (hostWrite s a img) st i e
      else if !bit r.cfg.toNat 6 then afterEntry (store (tally s 5 true a 32) a img) st i e
      else sendTxn (modRing s ri fun r => { r with busy := true }) 1 1 (BitVec.ofNat 16 (bits r.cfg.toNat 32 16))
        (BitVec.ofNat 64 a) (BitVec.ofNat 64 (255 <<< 3)) img (.ring ri st)

/-- Free the journal entries whose completion entries the ring head has passed (R220). -/
def freeEntries (s : State) (ri : Nat) : State :=
  let r := ringOf s ri
  s.cmd.streams.foldl (fun s p =>
    if bits p.2.cfg.toNat 16 11 = ri then
      modStrm s p.1 fun x => { x with journal := x.journal.filter fun e => !(e.st = .completed && (r.tail - r.head).toNat < (r.tail - e.slot).toNat) }
    else s) s

/-- What waits for Bus Master Enable or for the host link goes out (R574): DB_AWB words and pending messages of unmasked
vectors. -/
def flushHost (s : State) : State :=
  if !hostReady s then s
  else
    let ws := s.cmd.awbWait
    let s := { s with cmd := { s.cmd with awbWait := [] } }
    let s := ws.foldl awbWrite s
    let go := s.hif.pba.filter fun v => s.hif.msixEn && !s.hif.fmask && !vecMasked s v
    let s := { s with hif := { s.hif with pba := s.hif.pba.filter fun v => !go.contains v } }
    go.reverse.foldl fire s

end Sys2Proof.Machine
end

