-- ==== Sys2Proof/Machine/Engine.lean ====
section
/-! DEFINITION. The tile engine: bundles and their slots (R150 to R155), the schedule audit (R145 to R149, R156 to R161), what each
operation does to the tile (R156 to R160, R171 to R181), and a whole tile program run as one job (R140 to R144, R165). -/

namespace Sys2Proof.Machine

/-- A time that never comes (R146). -/
abbrev never : Nat := 0xFFFFFFFFFF

/-- Bits of an operand-buffer segment (R145). -/
abbrev segBits : Nat := 262144

/-- What a tile job carries (R140): its command's environment, its block, its loop counts and its program; `stg` are the HBM blocks staged for it. -/
structure JCtx where
  v : Env
  bi : Nat
  m0 : Nat
  n0 : Nat
  me : Nat
  ne : Nat
  kk : Nat
  jl : List Nat
  img : List Byte
  intOk : Bool
  wbase : Nat
  stg : List Nat := []
deriving DecidableEq, Repr

/-! ### Bundles -/

/-- nb of an image (R608). -/
def JCtx.nb (c : JCtx) : Nat := fieldAt c.img 0 0 11
/-- nd of an image. -/
def JCtx.nd (c : JCtx) : Nat := fieldAt c.img 0 16 9
/-- Bundle i. -/
def JCtx.bun (c : JCtx) (i : Nat) : Nat := leNat (slice c.img (64 + 32 * i) 32)
/-- Entry j of the descriptor table. -/
def JCtx.desc (c : JCtx) (j : Nat) : Desc := parseDesc c.img (64 * (1 + cdiv c.nb 2 + j))

/-- The number of a slot in R147's order. -/
def slotIx : TileSlot → Nat
  | .c => 0 | .x => 1 | .m => 2 | .v0 => 3 | .v1 => 4 | .e => 5

/-- The bits of a slot of a bundle (R150). -/
def slotOf (b : Nat) : TileSlot → Nat
  | .c => bits b 0 32 | .x => bits b 32 48 | .m => bits b 80 48 | .v0 => bits b 128 40 | .v1 => bits b 168 40 | .e => bits b 208 48

/-- The opcode of a slot. -/
def slotOp (sl : TileSlot) (f : Nat) : Nat := match sl with | .v0 => bits f 0 6 | .v1 => bits f 0 6 | _ => bits f 0 4

/-- The bits that an operation of a slot uses (R150 to R155); none for a reserved opcode. -/
def slotMask (sl : TileSlot) (op : Nat) : Option Nat :=
  let rnd := 7 <<< 27
  match sl with
  | .c => match op with | 0 => some 0xF | 1 => some 0xF | 2 => some 0xFFFF | 3 => some 0xFFFFF | 4 => some 0xFFFFFFFF | _ => none
  | .x => if op = 0 then some 0xF else if op = 1 ∨ op = 2 then some 0x3FFFFFFF else none
  | .m => match op with | 0 => some 0xF | 1 => some (2 ^ 35 - 1) | 2 => some 0x3F | _ => none
  | .e => match op with | 0 => some 0xF | 1 => some (2 ^ 27 - 1) | 2 => some (2 ^ 22 - 1 - 0x30) | _ => none
  | _ =>
    if op = 0 then some 0x3F
    else if op = 4 then some 0x3FFFFFFF
    else if op = 6 ∨ op = 9 then some (2 ^ 17 - 1 + rnd)
    else if op = 1 ∨ op = 2 ∨ op = 3 ∨ op = 5 ∨ op = 7 ∨ op = 8 then some (2 ^ 22 - 1 + rnd)
    else if op = 0x12 then some (0x1FFFF - 0x40)
    else if op = 0x10 then some (2 ^ 34 - 1 - 0x40)
    else if op = 0x11 then some (2 ^ 37 - 1 - 0x40)
    else none

/-- The current count of loop level l: the iteration, from 0; 0 of a level that is not active (log entry 37). -/
def loopCount (t : Tile) (l : Nat) : Nat :=
  match t.loops.find? fun x => x.1 = l with | some (_, _, _, _, i) => i | none => 0

/-- The count that an idx or kl field names: 0 for none. -/
def namedCount (t : Tile) (f : Nat) : Nat := if f = 0 then 0 else loopCount t (f - 1)

/-- The formats that a DRAIN may write (R61): an INT format only in SELFTEST and MAINTENANCE, and no other from INT operands; a program that names
one of another kind fails the bundle check (log entry 107). -/
def JCtx.outOk (c : JCtx) (fmt : Nat) : Bool := if isInt c.v.a.fmt then isInt fmt else !isInt fmt || c.intOk

/-- The slot breaks a rule of its fields (R151 to R155, R608). -/
def badSlot (c : JCtx) (t : Tile) (sl : TileSlot) (f : Nat) : Bool :=
  let op := slotOp sl f
  match slotMask sl op with
  | none => true
  | some m =>
    (f ^^^ (f &&& m)) ≠ 0 || match sl with
    | .c =>
      op = 4 && (let e := bits f 6 10
        e ≤ t.bundle || c.nb ≤ e || t.loops.any (fun l => l.1 ≥ bits f 4 2 || l.2.2.1 < e))
    | .x => op ≠ 0 && (15 < bits f 8 4 + bits f 12 4 || c.nd ≤ bits f 16 8 || bits f 24 3 = 7 || 4 < bits f 27 3)
    | .m => op = 1 && 4 < bits f 32 3
    | .e =>
      if op = 1 then c.nd ≤ bits f 6 8 || !c.outOk (c.desc (bits f 6 8)).fmt || (!bit f 22 && bits f 23 4 ≠ 0) || (bit f 22 && bits f 23 4 % 2 = 1)
      else op = 2 && (bits f 6 4 % 2 = 1 || bits f 10 4 % 2 = 1 || bits f 14 4 % 2 = 1 || 8 < bits f 18 4)
    | _ =>
      if op = 0 then false
      else if sl = .v1 ∧ op ≠ 0x10 ∧ op ≠ 0x11 ∧ op ≠ 0x12 then true
      else if op = 0x10 ∨ op = 0x11 then
        let fm := bits f 26 8
        let l := if fm = 0xB then 32 else 64
        !(isFp fm || ((fm = 0x10 || fm = 0x11) && c.intOk)) || segBits < (bits f 16 10 + 1) * l * fmtBits fm
          || (op = 0x11 && (4 < bits f 34 3 || ((bits f 34 3 = 3 || bits f 34 3 = 4) && fm ≠ 0xA && fm ≠ 0xB)))
      else op ≠ 0x12 && 4 < bits f 27 3

/-! ### The schedule audit -/

/-- A failed check: status, slot, store, and the stamp or release cycle checked. -/
structure AFault where
  status : Nat
  slot : Nat
  store : Nat
  ready : Nat
deriving DecidableEq, Repr

/-- The reset stamp of a store (R146). -/
def stampDflt (i : Nat) : Stamp := ⟨if 0x40 ≤ i ∧ i < 0x50 then 0 else never, []⟩

/-- A store's stamp. -/
def stampOf (t : Tile) (i : Nat) : Stamp := tget t.stamps i (stampDflt i)

/-- Change a store's stamp. -/
def modStamp (t : Tile) (i : Nat) (f : Stamp → Stamp) : Tile := { t with stamps := tmod t.stamps i (stampDflt i) f }

/-- A cycle that has not come at the tile's TCY; `never` does not come. -/
def Tile.before (t : Tile) (c : Nat) : Bool := t.tcy < c || c = never

/-- A cycle as the 40 bits of TCY, its stamps and its release cycles hold it (R141, R145, log entry 108). -/
def cyc (n : Nat) : Nat := n % 2 ^ 40

/-- The latest release cycle of an owner in flight at a cycle; 0 where there is none. -/
def busyTill (t : Tile) (i : Nat) : Nat := ((stampOf t i).own.filter fun o => t.before o.2).foldl (fun m o => max m o.2) 0

/-- A store is owned until a cycle. -/
def addOwn (t : Tile) (i k rel : Nat) : Tile :=
  modStamp t i fun s => { s with own := (s.own.filter fun o => t.before o.2 && !(k ≠ 0 && o.1 = k)) ++ [(k, rel)] }

/-- What R156 says of a slot: resources with release, claims with owner, release and stamp, holds with owner and release, reads. -/
structure Need where
  res : List (Nat × Nat) := []
  claim : List (Nat × Nat × Nat × Option Nat) := []
  hold : List (Nat × Nat × Nat) := []
  read : List Nat := []
  late : List (Nat × Nat × Nat × Option Nat) := []
  chain : Option (Option Chain) := none
deriving DecidableEq, Repr

/-- Latency of a vector operation (R156). -/
def vLat (op : Nat) (wide : Bool) : Nat :=
  if op = 4 then (if wide then 6 else 5) else if op = 5 ∨ op = 6 then (if wide then 24 else 14) else if op = 9 then 3
  else if op = 0x12 then 1 else if wide then 5 else 4

/-- The epilogue reads segment se (R155). -/
def JCtx.usesSe (c : JCtx) : Bool := bits c.v.ectl 0 2 = 1 || (bits c.v.ectl 0 2 = 2 && (bit c.v.ectl 7 || bit c.v.ectl 8))

/-- The needs of a slot at the tile's TCY (R156, R159). Where several stores of a slot fail one check, the first of R156's order is the one reported
(log entry 123). -/
def slotNeed (c : JCtx) (t : Tile) (sl : TileSlot) (f : Nat) : Need :=
  let op := slotOp sl f
  let n (k : Nat) : Nat := cyc (t.tcy + k)
  match sl with
  | .x =>
    let segs := (List.range (bits f 12 4 + 1)).map (bits f 8 4 + ·)
    let tk := 0x40 + bits f 4 4
    if op = 0 then {}
    else if op = 1 then
      { claim := (tk, tk, never, none) :: segs.map fun s => (s, tk, never, some never), read := [tk] }
    else { claim := [(tk, tk, never, none)], hold := segs.map fun s => (s, tk, never), read := segs }
  | .m =>
    let a := 0x30 + bits f 4 2
    if op = 0 then {}
    else if op = 2 then { claim := [(a, 0, n 4, some (n 4))] }
    else
      let ch := bits f 14 2
      let sa := bits f 6 4
      let sb := bits f 10 4
      let kc := bits f 16 16 + namedCount t (bits f 32 3)
      { res := [(0x50, n 128)], hold := [(sa, 0, n 128), (sb, 0, n 128)], read := [sa, sb] ++ (if ch ≤ 1 then [a] else []),
        claim := if ch = 0 then [(a, a, n 140, some (n 140))] else if ch = 1 then [(a, a, never, some never)] else [],
        late := if ch = 3 then [(a, a, n 140, some (n 140))] else [],
        chain := some (if ch = 1 ∨ ch = 2 then some ⟨a - 0x30, kc⟩ else none) }
  | .e =>
    if op = 1 then
      let a := 0x30 + bits f 4 2
      let se := if c.usesSe then [bits f 18 4] else []
      let st := bits f 23 4
      let tk := 0x40 + bits f 14 4
      { res := [(0x51, n 257)], hold := (a, 0, n 257) :: se.map fun s => (s, 0, n 257), read := a :: se,
        claim := (tk, tk, never, none) :: (if bit f 22 then [(st, 0, n 260, some (n 260)), (st + 1, 0, n 260, some (n 260))] else []) }
    else if op = 2 then
      let pr (x : Nat) : List Nat := [x, x + 1]
      let ins := pr (bits f 6 4) ++ pr (bits f 10 4)
      { res := [(0x52, n 512)], hold := ins.map fun s => (s, 0, n 512), read := ins,
        claim := (pr (bits f 14 4)).map fun s => (s, 0, n 520, some (n 520)) }
    else {}
  | .c => {}
  | _ =>
    let vr (lo : Nat) : Nat := 0x10 + bits f lo 5
    if op = 0 then {}
    else if op = 0x10 then { read := [bits f 12 4], claim := [(vr 7, 0, n 6, some (n 6))] }
    else if op = 0x11 then
      let s := bits f 12 4
      { read := [vr 7], claim := [(s, 0, n 3, some (max (stampOf t s).ready (n 3)))] }
    else
      let l := n (vLat op (bit f 6))
      let srcs := if op = 6 ∨ op = 9 ∨ op = 0x12 then [vr 12] else if op = 4 then [vr 12, vr 17, vr 22] else [vr 12, vr 17]
      { read := srcs, claim := [(vr 7, 0, l, some l)] }

/-- Audit one slot (R147, R160, R165): the tile with its stamps moved, or the failed check. R147's table has neither the 0x0404 of R160, which stands
after the bundle check and names the accumulator tile with ready 0, nor the 0x0406 of R165, which names the first unretired token, else the open chain's
accumulator tile, with ready never (log entry 123). -/
def auditSlot (c : JCtx) (t : Tile) (b : Nat) (sl : TileSlot) : Except AFault Tile :=
  let f := slotOf b sl
  let op := slotOp sl f
  let ix := slotIx sl
  if badSlot c t sl f then .error ⟨0x0407, ix, 0xFF, 0⟩
  else if sl = .c then
    if op = 1 then
      match t.toks.head?, t.chain with
      | some x, _ => .error ⟨0x0406, ix, 0x40 + x.1, never⟩
      | none, some h => .error ⟨0x0406, ix, 0x30 + h.at_, never⟩
      | none, none => .ok t
    else .ok t
  else
    let n := slotNeed c t sl f
    let kc := bits f 16 16 + namedCount t (bits f 32 3)
    let chainBad := sl = .m && op = 1 && (match t.chain with
      | some h => bits f 14 2 ≤ 1 || h.at_ ≠ bits f 4 2 || h.kc + 1 ≠ kc
      | none => 2 ≤ bits f 14 2)
    if chainBad then .error ⟨0x0404, ix, 0x30 + bits f 4 2, 0⟩
    else match n.res.find? fun r => busyTill t r.1 ≠ 0 with
      | some r => .error ⟨0x0403, ix, r.1, busyTill t r.1⟩
      | none => match n.claim.find? fun r => busyTill t r.1 ≠ 0 with
        | some r => .error ⟨0x0402, ix, r.1, busyTill t r.1⟩
        | none => match n.read.find? fun i => t.before (stampOf t i).ready with
          | some i => .error ⟨0x0401, ix, i, (stampOf t i).ready⟩
          | none =>
            let t := n.res.foldl (fun t r => addOwn t r.1 0 r.2) t
            let put (t : Tile) (x : Nat × Nat × Nat × Option Nat) : Tile :=
              let t := addOwn t x.1 x.2.1 x.2.2.1
              match x.2.2.2 with | some r => modStamp t x.1 fun s => { s with ready := r } | none => t
            let t := (n.claim ++ n.late).foldl put t
            let t := n.hold.foldl (fun t h => addOwn t h.1 h.2.1 h.2.2) t
            let t := if sl = .x && op ≠ 0 then
                { t with toks := tput t.toks (bits f 4 4) ⟨if op = 1 then 0 else 1, bits f 8 4, bits f 12 4 + 1, [], false⟩ ⟨9, 0, 0, [], false⟩ }
              else if sl = .e && op = 1 then
                { t with toks := tput t.toks (bits f 14 4) ⟨2, 0, 0, [], false⟩ ⟨9, 0, 0, [], false⟩ }
              else t
            .ok (match n.chain with | some h => { t with chain := h } | none => t)

/-- Audit a bundle in the order of R147. The END check sees the state before its bundle. A fetch at or beyond nb (R608) is reported for slot C, and
bundle index 1,024 as 0 in its 10-bit field (log entry 123). -/
def auditBundle (c : JCtx) (t : Tile) : Except AFault Tile :=
  if c.nb ≤ t.bundle then .error ⟨0x0407, 0, 0xFF, 0⟩
  else
    let b := c.bun t.bundle
    [TileSlot.c, .x, .m, .v0, .v1, .e].foldl (fun (acc : Except AFault Tile) sl =>
      match acc with
      | .error f => .error f
      | .ok t => auditSlot c t b sl) (.ok t)

/-! ### The operand buffer -/

/-- Read bits of the operand buffer. -/
def obGet (t : Tile) (bo n : Nat) : Nat :=
  if n = 0 then 0 else bits (leNat ((List.range ((bo + n - 1) / 8 - bo / 8 + 1)).map fun i => tget t.ob ((bo / 8 + i) % 524288) 0)) (bo % 8) n

/-- Write bits of the operand buffer. -/
def obPut (t : Tile) (bo n v : Nat) : Tile :=
  if n = 0 then t
  else
    let k := (bo + n - 1) / 8 - bo / 8 + 1
    let old := leNat ((List.range k).map fun i => tget t.ob ((bo / 8 + i) % 524288) 0)
    let new := old - (bits old (bo % 8) n) <<< (bo % 8) + (v % 2 ^ n) <<< (bo % 8)
    { t with ob := ((natLe k new).zipIdx).foldl (fun o x => tput o ((bo / 8 + x.2) % 524288) x.1 0) t.ob }

/-! ### Transfers (R140, R144, R152) -/

/-- The address of an operand's element at the job's origin (log entry 36). -/
def originOf (d : Desc) (ix : List Nat) : Nat := d.bitAddr ix / 8

/-- A job base address (R140); P is the scale vector where the record has one, else the bias vector (log entry 36). -/
def JCtx.base (c : JCtx) (b : Nat) : Nat :=
  let v := c.v
  let bt := batchTuple v.o c.bi
  match b with
  | 0 => originOf v.a (0 :: c.m0 :: bt)
  | 1 => originOf v.b (c.n0 :: 0 :: bt)
  | 2 => originOf v.e (c.n0 :: c.m0 :: bt)
  | 3 => (if bit v.ectl 7 then wordAt v.rx 0x170 else wordAt v.rx 0x178) + 4 * c.n0
  | 4 => originOf v.o (c.n0 :: c.m0 :: bt)
  | 5 => v.so.addrOf 2 v.mm v.nn c.bi c.m0 c.n0
  | _ => c.wbase

/-- The elements of the operand that a base names: (bit address, inside the job's extents). OS has one for each output of a row; W is the job's
own. -/
def JCtx.positions (c : JCtx) (b : Nat) : List (Nat × Bool) :=
  let v := c.v
  let inM (m : Nat) : Bool := c.m0 ≤ m && m < c.m0 + c.me
  let inN (n : Nat) : Bool := c.n0 ≤ n && n < c.n0 + c.ne
  let all (d : Desc) (f : Nat → Nat → Bool) : List (Nat × Bool) :=
    (List.range d.total).map fun i =>
      let t := tupleOf d.counts i
      (d.bitAddr t, f (t.getD 0 0) (t.getD 1 0) && linearOf (d.counts.drop 2) (t.drop 2) = c.bi)
  let row (o : Nat) (on : Bool) : List (Nat × Bool) :=
    if on then (List.range (max v.nn (c.n0 + 64))).map fun n => (8 * (wordAt v.rx o + 4 * n), inN n) else []
  match b with
  | 0 => all v.a fun _ m => inM m
  | 1 => all v.b fun n _ => inN n
  | 2 => if bits v.ectl 0 2 = 1 then all v.e fun n m => inN n && inM m else []
  | 3 => if bits v.ectl 0 2 = 2 then row 0x170 (bit v.ectl 7) ++ row 0x178 (bit v.ectl 8) else []
  | 4 => all v.o fun n m => inN n && inM m
  | 5 => if v.so.blk = 0 then [] else (List.range (max v.mm (c.m0 + 128))).flatMap fun m => (List.range (max v.nn (c.n0 + 64))).map fun n =>
      (8 * v.so.addrOf 2 v.mm v.nn c.bi m n, inM m && inN n)
  | _ => []

/-- A bit address is that of a position past a descriptor's level-0 or level-1 count, up to `c0` and `c1`, in the job's batch index. -/
def JCtx.past (c : JCtx) (d : Desc) (c0 c1 x : Nat) : Bool :=
  let w : Int := d.width
  let at0 : Int := 8 * (d.addr : Int) + w * d.offset (0 :: 0 :: batchTuple c.v.o c.bi)
  (List.range (max c1 (d.count 1))).any fun j =>
    let lo := if j < d.count 1 then d.count 0 else 0
    let df := (x : Int) - at0 - w * (j * d.stride 1)
    let st := w * d.stride 0
    lo < max c0 (d.count 0) && (if st = 0 then df = 0 else df % st = 0 && (lo : Int) ≤ df / st && df / st < (max c0 (d.count 0) : Nat))

/-- A bit address past the counts of the operand that a base names, as far as a whole block reaches. -/
def JCtx.pastEnd (c : JCtx) (b x : Nat) : Bool :=
  let v := c.v
  let kTop := cdiv c.kk 256 * 256
  match b with
  | 0 => c.past v.a kTop (c.m0 + 128) x
  | 1 => c.past v.b (c.n0 + 64) kTop x
  | 2 => bits v.ectl 0 2 = 1 && c.past v.e (c.n0 + 64) (c.m0 + 128) x
  | 4 => c.past v.o (c.n0 + 64) (c.m0 + 128) x
  | _ => false

/-- A transfer of the job never touches a bit address (R144): it is that of positions of the operand, all of them outside its extents. -/
def JCtx.outside (c : JCtx) (b : Nat) (ps : List (Nat × Bool)) (x : Nat) : Bool :=
  (ps.any (fun p => p.1 = x && !p.2) || c.pastEnd b x) && !ps.any fun p => p.1 = x && p.2

/-- The elements of a transfer: bit address and OB bit offset from the first segment, packed densely in linear order, as far as the
named segments reach; with idx beyond the outermost level's count the address goes on past it (log entry 37). -/
def xferEls (c : JCtx) (t : Tile) (f : Nat) : Nat × List (Nat × Nat) :=
  let b := bits f 24 3
  let d0 := c.desc (bits f 16 8)
  let d := { d0 with addr := c.base b + d0.addr }
  let idx := bits f 27 3
  let top := d.nlev - 1
  let counts := if idx = 0 then d.counts else d.counts.set top 1
  let total := counts.foldl (· * ·) 1
  let room := (bits f 12 4 + 1) * segBits / max 1 d.width
  let ps := c.positions b
  let els := (List.range (min total room)).map fun i =>
    let tp := tupleOf counts i
    let tp := if idx = 0 then tp else tp.set top (namedCount t idx)
    (d.bitAddr tp, i * d.width)
  (d.width, els.filter fun x => !c.outside b ps x.1)

/-- A bit range names memory. -/
def namesMem (ba w : Nat) : Bool := inSerai (ba / 8) ((ba % 8 + w + 7) / 8) || inHbm (ba / 8) ((ba % 8 + w + 7) / 8)

/-- An LDS reads an address: of the Serai, or of an HBM block that is staged for the job (R40, R284). What lies elsewhere the model leaves alone (log
entry 37). -/
def JCtx.reads (c : JCtx) (ba : Nat) : Bool := ba / 8 < hbmBase || c.stg.contains (ba / 8 / 0x40000)

/-- A transfer issues (R152): an STS takes the bits of its segments, which it holds. An element outside memory is left alone (log entry 37). -/
def issueXfer (c : JCtx) (t : Tile) (f : Nat) : Tile :=
  let tok := bits f 4 4
  let x := tget t.toks tok ⟨9, 0, 0, [], false⟩
  let (w, els) := xferEls c t f
  let els := els.filter fun e => namesMem e.1 w && (x.kind ≠ 0 || c.reads e.1)
  let seg := bits f 8 4 * segBits
  let l := els.map fun e => if x.kind = 0 then (e.1, w, seg + e.2) else (e.1, w, obGet t (seg + e.2) w)
  { t with toks := tput t.toks tok { x with bits := l } ⟨9, 0, 0, [], false⟩ }

/-- A transfer lands (R157): an LDS fills its segments. It holds its token until WAITX retires it. -/
def landXfer (m : Mem) (t : Tile) (tok : Nat) : Tile :=
  let x := tget t.toks tok ⟨9, 0, 0, [], false⟩
  let put (t : Tile) (y : Xfer) : Tile := { t with toks := tput t.toks tok y ⟨9, 0, 0, [], false⟩ }
  if x.kind = 9 ∨ x.done then t
  else if x.kind = 0 then
    let ws := (x.bits.flatMap fun e => errWords m (e.1 / 8) ((e.1 % 8 + e.2.1 + 7) / 8)).eraseDups
    let bad := (ws.find? (badWord m)).map (· * 32)
    let t := x.bits.foldl (fun t e => obPut t e.2.2 e.2.1 (readBits m e.1 e.2.1)) t
    put { t with bad := if t.bad.isSome then t.bad else bad, met := t.met ++ ws } { x with done := true, bits := [] }
  else put t { x with done := true }

/-! ### The matrix array (R158 to R160) -/

/-- ZAT (R160). -/
def doZat (c : JCtx) (t : Tile) (f : Nat) : Tile :=
  { t with acc := tput t.acc (bits f 4 2) (List.replicate 8192 (LWord.zero c.v.anchor)) [],
           res := tput t.res (bits f 4 2) (List.replicate 8192 0) [] }

/-- A chunk element's scale byte (R158): the chunk's scales stand at 0x4000 of its segment, laid out by R78. -/
def chunkScale (t : Tile) (b : Bsd) (role seg rows cols r cl : Nat) : Option Nat :=
  if b.blk = 0 then none
  else
    let along := (b.along role).getD true
    let off := if along then r * cdiv cols (b.size cols) + cl / b.size cols else (r / b.size rows) * cols + cl
    some (obGet t (8 * (32768 * seg + 0x4000 + off)) 8)

/-- What the products of a chunk add up to at one word: the word, its carried residue, and the products that trapped. -/
abbrev MmaAcc := LWord × Nat × List TrapHit

/-- One MMA (R119, R138, R158, R144): the products of a chunk are placed and added, their residues beside them; masked products take no part. -/
def doMma (c : JCtx) (t : Tile) (f : Nat) : Tile :=
  let v := c.v
  let lc := chunkLen v.opc v.a.fmt v.b.fmt
  let sa := bits f 6 4
  let sb := bits f 10 4
  let kb := (bits f 16 16 + namedCount t (bits f 32 3)) * lc
  let ks := (List.range lc).filter fun j => kb + j < c.kk
  let at_ := bits f 4 2
  let acc := tget t.acc at_ []
  let res := tget t.res at_ []
  let word (i : Nat) (w : LWord) : MmaAcc :=
    let r := i / 64
    let n := i % 64
    let start : MmaAcc := (w, res.getD i 0, [])
    if c.me ≤ r ∨ c.ne ≤ n then start
    else ks.foldl (fun (a : MmaAcc) j =>
      let fc : Factors :=
        { ea := obGet t (sa * segBits + (r * lc + j) * v.a.width) v.a.width, sa := chunkScale t v.sa 0 sa 128 lc r j,
          eb := obGet t (sb * segBits + (j * 64 + n) * v.b.width) v.b.width, sb := chunkScale t v.sb 1 sb lc 64 j n,
          priv := v.priv.any (·.1 = c.n0 + n) }
      let y := v.product fc
      let p := v.place c.bi (c.m0 + r) (c.n0 + n) (kb + j) y
      let hit : TrapHit := ⟨c.bi, c.m0 + r, c.n0 + n, kb + j, p.trap, fc.ea, fc.sa.getD 0, fc.eb, fc.sb.getD 0⟩
      (a.1.add p.word, (a.2.1 + v.carry c.bi (c.m0 + r) (c.n0 + n) (kb + j) (v.image fc) y) % 127,
        if p.trap = 0 then a.2.2 else a.2.2 ++ [hit])) start
  let rs := (acc.zipIdx).map fun x => word x.2 x.1
  { t with acc := tput t.acc at_ (rs.map (·.1)) [], res := tput t.res at_ (rs.map (·.2.1)) [], hits := t.hits ++ rs.flatMap (·.2.2) }

/-- The words of an accumulator tile as a drain meets them (R139). -/
def faultAcc (t : Tile) (f : Nat) (dev : List (Nat × BitVec 192)) : Tile :=
  if dev = [] then t
  else { t with acc := tput t.acc (bits f 4 2) (((tget t.acc (bits f 4 2) []).zipIdx).map fun x => { x.1 with val := x.1.val ^^^ devAt dev x.2 }) [] }

/-- Some word of the accumulator tile that a drain names fails the residue check (R139, R171). -/
def drainMism (t : Tile) (f : Nat) : Bool := residueBad (tget t.acc (bits f 4 2) []) (tget t.res (bits f 4 2) [])

/-! ### The vector unit (R154, R156) -/

/-- A lane of a register: FP32 lane i, or FP64 pair i. -/
def lane (t : Tile) (r : Nat) (wide : Bool) (i : Nat) : Nat :=
  let x := (tget t.vreg r 0).toNat
  if wide then bits x (64 * i) 64 else bits x (32 * i) 32

/-- Write a register from its lanes. -/
def setReg (t : Tile) (r : Nat) (w : Nat) (ls : List Nat) : Tile :=
  { t with vreg := tput t.vreg r (BitVec.ofNat 2048 ((ls.zipIdx).foldl (fun a x => a + (x.1 % 2 ^ w) <<< (w * x.2)) 0)) 0 }

/-- Add to the job's report. -/
def Tile.note (t : Tile) (r : Rep) : Tile :=
  { t with rep := (t.rep.1 ||| r.bits, t.rep.2.1 + r.ovf, t.rep.2.2.1 + r.spec, t.rep.2.2.2 + r.zero) }

/-- The job's report. -/
def Tile.report (t : Tile) : Rep := ⟨t.rep.1, t.rep.2.1, t.rep.2.2.1, t.rep.2.2.2⟩

/-- The draw of lane i of a vector operation under SR: a free function of coordinates (R3, log entry 37). -/
def JCtx.draw (c : JCtx) (t : Tile) (i : Nat) : Nat :=
  (Config.vecDither [rSeed c.v.rx, rTid c.v.rx, bits c.v.nctl 0 8, c.bi, c.m0, c.n0, t.tcy, i]).toNat

/-- Arithmetic, VCVT and VMOV (R156). A VCVT to FP64 converts lanes 0 to 31, and one to FP32 leaves its results there (log entry 37). The draw of a stochastic rounding and the upper lanes of a VCVT to FP32 are free functions of
coordinates and operand (log entry 37). -/
def doVec (c : JCtx) (t : Tile) (f : Nat) : Tile :=
  let op := bits f 0 6
  let wide := bit f 6
  let vd := bits f 7 5
  let va := bits f 12 5
  let vb := bits f 17 5
  let vc := bits f 22 5
  let rnd := bits f 27 3
  if op = 0x12 then { t with vreg := tput t.vreg vd (tget t.vreg va 0) 0 }
  else if op = 9 then
    let src := if wide then fp64 else fp32
    let dst := if wide then fp32 else fp64
    let rs := (List.range 32).map fun i => vecOp 9 src dst rnd false (if rnd = 2 then c.draw t i else 0) (lane t va wide i) 0 0
    let up := if wide then (List.range 32).map fun i => (Config.vcvtUpper (tget t.vreg va 0) i).toNat else []
    (setReg t vd dst.width (rs.map (·.1) ++ up)).note ((rs.map (·.2)).foldl Rep.join {})
  else
    let fm := if wide then fp64 else fp32
    let rs := (List.range (if wide then 32 else 64)).map fun i =>
      vecOp op fm fm rnd false (if rnd = 2 then c.draw t i else 0) (lane t va wide i) (lane t vb wide i) (lane t vc wide i)
    (setReg t vd fm.width (rs.map (·.1))).note ((rs.map (·.2)).foldl Rep.join {})

/-- VLD (R154). -/
def doVld (t : Tile) (f : Nat) : Tile :=
  let fm := bits f 26 8
  let w := fmtBits fm
  let l := if fm = 0xB then 32 else 64
  let bo := bits f 12 4 * segBits + bits f 16 10 * l * w
  let xs := (List.range l).map fun i => obGet t (bo + i * w) w
  if fm = 0xB then setReg t (bits f 7 5) 64 xs else setReg t (bits f 7 5) 32 (xs.map (widen32 fm))

/-- VST (R154): a signalling NaN raises invalid (R91); the dither coordinates of element i of the segment are row i / 64 and column i mod 64 of the block (log entry 37). -/
def doVst (c : JCtx) (t : Tile) (f : Nat) : Tile :=
  let fm := bits f 26 8
  match fmtOf fm with
  | none => t
  | some fo =>
    let w := fo.width
    let wide := fm = 0xB
    let l := if wide then 32 else 64
    let rnd := bits f 34 3
    let bo := bits f 12 4 * segBits + bits f 16 10 * l * w
    (List.range l).foldl (fun t i =>
      let ix := bits f 16 10 * l + i
      let u := if rnd = 2 then c.v.draw c.bi (c.m0 + ix / 64) (c.n0 + ix % 64) 0xFFFFFFFF else 0
      let src := if wide then fp64 else fp32
      let x := lane t (bits f 7 5) wide i
      let r := convert fo rnd false u (decodeVal src x)
      (obPut t (bo + i * w) w r.enc).note ((repTo fo r).join (repBit 6 (isSnan src x)))) t

/-! ### Drain and epilogue (R171 to R181) -/

/-- The FP32 value y of a word, its epilogue operand taken from segment se (R171, R174, R175). -/
def drainVal (c : JCtx) (t : Tile) (se r n : Nat) (w : LWord) : Nat × Rep :=
  let v := c.v
  let x := convert fp32 0 false 0 (v.outVal (c.n0 + n) w)
  let r0 := repIeee x
  let fam := bits v.ectl 0 2
  if fam = 1 then
    let e := widen32 v.e.fmt (obGet t (se * segBits + (r * 64 + n) * v.e.width) v.e.width)
    let (y, r1) := f32 (if bit v.ectl 2 then 3 else 1) x.enc e 0
    (y, r0.join r1)
  else if fam = 2 then
    let at_ (o : Nat) : Nat := obGet t (8 * (32768 * se + o + 4 * n)) 32
    let sc := bit v.ectl 7
    let bi := bit v.ectl 8
    let (y1, r1) := if sc || bi then f32 4 x.enc (if sc then at_ 0 else 0x3F800000) (if bi then at_ 0x100 else 0) else (x.enc, {})
    let (y, r2) := activation (bits v.ectl 3 4) y1
    (y, (r0.join r1).join r2)
  else (x.enc, r0)

/-- DRAIN (R155, R171, R176, R181): the outputs of the block wait at its token; the output format is that of the program's
descriptor (log entry 37). With k = 0 (tke = 0) its lists have one entry, the largest, along dir 0 (log entry 37). The rounding of a fused key to
FP32 (R178) raises its flags too (R91). -/
def doDrain (c : JCtx) (t : Tile) (f : Nat) : Tile :=
  let d0 := c.desc (bits f 6 8)
  let d := { d0 with addr := c.base 4 + d0.addr }
  let v := { c.v with o := { c.v.o with fmt := d.fmt } }
  let se := bits f 18 4
  let tok := bits f 14 4
  let acc := tget t.acc (bits f 4 2) []
  let w (r n : Nat) : LWord := acc.getD (64 * r + n) (LWord.zero v.anchor)
  let pos := (List.range c.me).flatMap fun r => (List.range c.ne).map fun n => (r, n)
  let plain := v.so.blk = 0 && !bit f 22
  let ys := if plain then [] else pos.map fun p => ((c.m0 + p.1, c.n0 + p.2), drainVal c t se p.1 p.2 (w p.1 p.2))
  let rw := (pos.map fun p => repWord (w p.1 p.2)).foldl Rep.join {}
  let ry := (ys.map (·.2.2)).foldl Rep.join rw
  let outAt (r n x : Nat) : Nat × Nat × Nat := (d.bitAddr [n, r], d.width, x)
  let (outs, rep) : List (Nat × Nat × Nat) × Rep :=
    if v.scalePass then ([], ry)
    else if v.so.blk ≠ 0 then
      let bs := v.so.size 0
      (List.range c.me).foldl (fun (acc : List (Nat × Nat × Nat) × Rep) r => (List.range (cdiv c.ne bs)).foldl (fun acc j =>
        let yb := (ys.filter fun y => y.1.1 = c.m0 + r && (y.1.2 - c.n0) / bs = j).map fun y => (y.1.2, y.2.1)
        let (sc, els, rq) := v.quant c.bi (c.m0 + r) yb (amaxOf (yb.map Prod.snd))
        (acc.1 ++ [(8 * v.so.addrOf 2 v.mm v.nn c.bi (c.m0 + r) (c.n0 + bs * j), 8, sc)]
          ++ (yb.zip els).map (fun z => outAt r (z.1.1 - c.n0) z.2), acc.2.join rq)) acc) ([], ry)
    else
      let fs := pos.map fun p =>
        let (r, n) := p
        if v.o.fmt = 0x20 then (outAt r n ({ w r n with anchor := v.anchor }.bits), repWord (w r n))
        else if bits v.ectl 0 2 = 0 then
          let (x, rp) := v.final c.bi (c.m0 + r) (c.n0 + n) (w r n)
          (outAt r n x, rp)
        else
          let (y, r1) := drainVal c t se r n (w r n)
          let (x, r2) := v.conv c.bi (c.m0 + r) (c.n0 + n) (decodeVal fp32 y)
          (outAt r n x, ((repWord (w r n)).join r1).join r2)
      (fs.map Prod.fst, (fs.map Prod.snd).foldl Rep.join {})
  let x := tget t.toks tok ⟨9, 0, 0, [], false⟩
  let kept : List (Nat × Nat × Nat) := ys.map fun y => (y.1.1, y.1.2, y.2.1)
  let t := { t with toks := tput t.toks tok { x with bits := outs } ⟨9, 0, 0, [], false⟩, vals := t.vals ++ kept }
  let t := t.note (if bit f 22 then rep.join ry else rep)
  if bit f 22 then
    let k := bits v.kctl 0 9
    let dir := bit v.kctl 9
    let l := min (if dir then 128 else 64) (pow2Up k)
    let line (i : Nat) : List KEnt := if dir
      then (ys.filter fun y => y.1.2 = c.n0 + i).map fun y => (keyOf y.2.1, BitVec.ofNat 32 y.1.1)
      else (ys.filter fun y => y.1.1 = c.m0 + i).map fun y => (keyOf y.2.1, BitVec.ofNat 32 y.1.2)
    (List.range (if dir then 64 else 128)).foldl (fun t i =>
      ((kTake v.kctl l (line i)).zipIdx).foldl (fun t x =>
        obPut t (bits f 23 4 * segBits + 64 * (i * l + x.2)) 64 (x.1.1.toNat + x.1.2.toNat <<< 32)) t) t
  else t

/-- TMRG (R181). -/
def doTmrg (c : JCtx) (t : Tile) (f : Nat) : Tile :=
  let l := 2 ^ bits f 18 4
  let ent (seg i j : Nat) : KEnt :=
    let x := obGet t (seg * segBits + 64 * (i * l + j)) 64
    (BitVec.ofNat 32 x, BitVec.ofNat 32 (x >>> 32))
  let lists := (List.range (8192 / l)).map fun i =>
    kTake c.v.kctl l (((List.range l).map (ent (bits f 6 4) i) ++ (List.range l).map (ent (bits f 10 4) i)).filter (·.2 ≠ 0xFFFFFFFF))
  (lists.zipIdx).foldl (fun t y => (y.1.zipIdx).foldl (fun t x =>
    obPut t (bits f 14 4 * segBits + 64 * (y.2 * l + x.2)) 64 (x.1.1.toNat + x.1.2.toNat <<< 32)) t) t

/-- What a slot other than C does to the tile. -/
def doSlot (c : JCtx) (t : Tile) (sl : TileSlot) (f : Nat) : Tile :=
  let op := slotOp sl f
  match sl with
  | .x => if op = 0 then t else issueXfer c t f
  | .m => if op = 1 then doMma c t f else if op = 2 then doZat c t f else t
  | .e => if op = 1 then doDrain c t f else if op = 2 then doTmrg c t f else t
  | .v0 => if op = 0 then t else if op = 0x10 then doVld t f else if op = 0x11 then doVst c t f else doVec c t f
  | .v1 => if op = 0 then t else if op = 0x10 then doVld t f else if op = 0x11 then doVst c t f else doVec c t f
  | _ => t

/-! ### Control (R151, R157, R165) -/

/-- Retire the tokens of a mask (R157): the writes that have now reached the Serai. -/
def retire (t : Tile) (mask : Nat) : Tile × List (Nat × Nat × Nat) :=
  (List.range 16).foldl (fun (acc : Tile × List (Nat × Nat × Nat)) n =>
    let (t, w) := acc
    match t.toks.find? (·.1 = n) with
    | some (_, x) =>
      if !bit mask n then acc
      else
        let segs := (List.range x.nseg).map (x.seg + ·)
        let rel (t : Tile) (i : Nat) : Tile := modStamp t i fun s => { s with own := s.own.map fun o => if o.1 = 0x40 + n then (o.1, cyc (t.tcy + 1)) else o }
        let t := (segs ++ [0x40 + n]).foldl rel t
        let t := if x.kind = 0 then segs.foldl (fun t i => modStamp t i fun s => { s with ready := cyc (t.tcy + 1) }) t else t
        ({ t with toks := t.toks.filter (·.1 ≠ n) }, w ++ x.bits)
    | none => acc) (t, [])

/-- Move past the last bundle of a body (R151): jump back while iterations remain. -/
def advance (t : Tile) (last skip : Nat) : Tile :=
  let rec go (fuel : Nat) (ls : List (Nat × Nat × Nat × Nat × Nat)) : List (Nat × Nat × Nat × Nat × Nat) × Nat :=
    match fuel with
    | 0 => (ls, last + 1)
    | k + 1 =>
      match ls with
      | (l, b, e, n, i) :: r => if e = last then (if i + 1 < n then ((l, b, e, n, i + 1) :: r, b) else go k r) else (ls, last + 1)
      | [] => ([], last + 1)
  let (ls, pc) := go 5 t.loops
  { t with loops := ls, bundle := pc, tcy := cyc (t.tcy + 1 + skip), audited := false, issued := [] }

/-- The C slot closes a bundle, WAITX apart: NOP, IDLE, LOOP; END ends the job. -/
def closeBundle (c : JCtx) (t : Tile) (f : Nat) : Tile :=
  match bits f 0 4 with
  | 1 => { t with ended := true, tcy := cyc (t.tcy + 1) }
  | 2 => advance t t.bundle (bits f 4 12)
  | 4 =>
    let lvl := bits f 4 2
    let e := bits f 6 10
    let n := if bits f 16 16 = 0 then nth c.jl lvl else bits f 16 16
    if n = 0 then advance t e 0 else advance { t with loops := (lvl, t.bundle + 1, e, n, 0) :: t.loops } t.bundle 0
  | _ => advance t t.bundle 0

/-! ### A whole job -/

/-- Write bits to memory alone. -/
def memBits (m : Mem) (ba w v : Nat) : Mem :=
  let a := ba / 8
  let n := (ba + w - 1) / 8 - a + 1
  let old := leNat (rd m a n)
  if w = 0 then m else wrRaw m a (natLe n (old - (bits old (ba % 8) w) <<< (ba % 8) + (v % 2 ^ w) <<< (ba % 8)))

/-- A tile ready for the first bundle of a job (R141, R146), its instruction memory and counters kept. -/
def freshTile (t : Tile) : Tile :=
  { t with ended := false, tcy := 0, bundle := 0, loops := [], audited := false, issued := [], waitMask := none, frozen := 0, ob := [],
           vreg := [], acc := [], res := [], rep := (0, 0, 0, 0), hits := [], bad := none, met := [], stamps := [], toks := [], chain := none, vals := [] }

/-- Run a bundle as a whole: transfers land at once, and a WAITX retires them. -/
def runBundle (c : JCtx) (m : Mem) (t : Tile) : Except AFault (Tile × List (Nat × Nat × Nat)) :=
  match auditBundle c t with
  | .error f => .error f
  | .ok t =>
    let b := c.bun t.bundle
    let xf := slotOf b .x
    let t := if bits xf 0 4 = 0 then t else landXfer m (issueXfer c t xf) (bits xf 4 4)
    let t := [TileSlot.m, .v0, .v1, .e].foldl (fun t sl => doSlot c t sl (slotOf b sl)) t
    let cf := slotOf b .c
    if bits cf 0 4 = 3 then
      let (t, w) := retire t (bits cf 4 16)
      .ok (advance t t.bundle 0, w)
    else .ok (closeBundle c t cf, [])

/-- The writes of the transfers that are in flight or not yet retired: an audit failure lets them run on (R161). -/
def flying (t : Tile) : List (Nat × Nat × Nat) := (t.toks.filter fun x => x.2.kind ≠ 0).flatMap fun x => x.2.bits

/-- What a program leaves: the tile, the writes in order, and the failed check. -/
def runProg : Nat → JCtx → Mem → Tile → List (Nat × Nat × Nat) → Tile × List (Nat × Nat × Nat) × Option AFault
  | 0, _, _, t, w => (t, w, none)
  | n + 1, c, m, t, w =>
    match runBundle c m t with
    | .error f => (t, w ++ flying t, some f)
    | .ok (t, w') =>
      let m := w'.foldl (fun m x => memBits m x.1 x.2.1 x.2.2) m
      if t.ended then (t, w ++ w', none) else runProg n c m t (w ++ w')

/-- The steps that no program exceeds: 1,024 bundles under four nested loops of 65,535 or 2^32 − 1 iterations. -/
abbrev progFuel : Nat := 2 ^ 160

/-- The context of a job of a RUN_PROGRAM (R140, R195): the workspace base is the job's own 256 KiB of the workspace region (log
entry 36). -/
def progCtx (conf : Conf) (maint : Bool) (v : Env) (img : List Byte) (p : Plan) (vo j : Nat) : JCtx :=
  let (_, _, cols, k) := v.shape
  let (_, bi, mb, nb) := p.mapJob vo (p.phases.headD ⟨0, 0, 0⟩) j
  let (rs, cs) := p.positions v mb nb cols
  { v := v, bi := bi, m0 := rs.headD 0, n0 := cs.headD 0, me := rs.length, ne := cs.length, kk := k,
    jl := (List.range 4).map fun i => leNat (slice v.rx (0x1D8 + 4 * i) 4), img := img, intOk := maint,
    wbase := rgnBase conf 2 * page + (j * 0x40000) % (max 1 (rgnSize conf 2) * page) }

/-- The schedule fault as TIL_SFLT0 to 3 report it (R182, R183), with valid = 1. -/
def faultRegs (f : AFault) (tile bundle tcy job st tag : Nat) : W64 × W64 × W64 × W64 :=
  (BitVec.ofNat 64 (f.status + tile <<< 16 + f.slot <<< 24 + (bundle % 1024) <<< 32 + f.store <<< 48 + 1 <<< 63), BitVec.ofNat 64 f.ready,
    BitVec.ofNat 64 (tcy % 2 ^ 40), BitVec.ofNat 64 (job % 2 ^ 32 + st <<< 32 + tag <<< 48))

/-- What a program's job leaves for its command (R171, R181, R248): its writes, and the values or lists of its drains. -/
def progRes (c : JCtx) (p : Plan) (t : Tile) (w : List (Nat × Nat × Nat)) : JobRes :=
  let v := c.v
  let rows := (List.range c.me).map (c.m0 + ·)
  let cols := (List.range c.ne).map (c.n0 + ·)
  let y (m n : Nat) : Option Nat := ((t.vals.reverse).find? fun x => x.1 = m && x.2.1 = n).map (·.2.2)
  let r : JobRes := { wr := w, rep := t.report, trap := (t.hits.head?.map (·.cause)).getD 0 }
  let k := bits v.kctl 0 9
  let dir := bit v.kctl 9
  let lines := if dir then cols else rows
  let ent (l : Nat) : List KEnt := if dir
    then rows.filterMap fun m => (y m l).map fun x => (keyOf x, BitVec.ofNat 32 m)
    else cols.filterMap fun n => (y l n).map fun x => (keyOf x, BitVec.ofNat 32 n)
  let keyed := if v.tke then lines.map fun l => kTake v.kctl (pow2Up k) (ent l) else []
  let work : Option Work :=
    if v.scalePass then
      let vals := rows.flatMap fun m => cols.map fun n => BitVec.ofNat 32 ((y m n).getD 0)
      let met := rows.flatMap fun m => cols.filterMap fun n => (y m n).map fun x => ((m, n), x)
      some (.vals vals (v.partAmax rows cols met) keyed)
    else if v.tke then some (.lists keyed) else none
  finishLists v (v.rounds p.blocks.length p.nb = 0) c.bi lines { r with work := work }

end Sys2Proof.Machine
end

