-- ==== Sys2Proof/Machine/Plan.lean ====
section
/-! DEFINITION. Starting a command (R223, R231, R275), planning it (R108, R123, R201, R241 to R252, R268), running its jobs
(R245 to R249, R433) and what follows a trap or an uncorrectable word (R129, R130, R296). -/

namespace Sys2Proof.Machine

/-! ### The anchor (R105, R108, R109) -/

/-- Exponents of the finite, non-zero scales among some bytes. -/
def expsOf (sfmt : Nat) (l : List Nat) : List Int :=
  l.filterMap fun b => match scaleParts sfmt b with | some (m, e) => if m = 0 then none else some e | none => none

/-- The exponents of operand A's scales that cover position k, over every row and batch as R108's formula words it (log entry 109). -/
def Env.expA (v : Env) (bc k : Nat) : List Int :=
  if v.sa.blk = 0 then [0]
  else expsOf v.sa.sfmt ((List.range bc).flatMap fun bi => (List.range v.mm).filterMap fun r => v.sa.byte v.m 0 v.mm v.kk bi r k)

/-- The exponents of operand B's scales that cover position k; a privileged column counts as σ = 1, e = 0 (R122). -/
def Env.expB (v : Env) (bc k : Nat) : List Int :=
  if v.sb.blk = 0 then [0]
  else
    let gs := if v.opc = 0x11 then List.range v.groups.length else [0]
    expsOf v.sb.sfmt (gs.flatMap fun g => (List.range bc).flatMap fun bi => (List.range v.nn).filterMap fun n =>
      if v.priv.any (·.1 = n) then none else (v.bOf g).2.byte v.m 1 v.kk v.nn bi k n) ++ (if v.priv = [] then [] else [0])

/-- Extremes of a list of integers. -/
def extremes (l : List Int) : Option (Int × Int) :=
  l.foldl (fun a x => match a with | none => some (x, x) | some (y, z) => some (min y x, max z x)) none

/-- The least and greatest exponent sum over the contributing scale pairs (R108); both 0 where there is none. -/
def Env.emm (v : Env) : Int × Int :=
  if v.opc = 0x13 then
    (extremes (if v.a.total = 0 then [] else if v.sa.blk = 0 then [0]
      else expsOf v.sa.sfmt ((List.range v.a.total).filterMap fun i => v.redScale (tupleOf v.a.counts i)))).getD (0, 0)
  else
    let bc := v.o.prod [2, 3, 4, 5]
    let alongK (b : Bsd) : Bool := b.blk = 0 || b.dir = 0
    let step := if v.sa.blk = 0 && v.sb.blk = 0 then max 1 v.kk else if alongK v.sa && alongK v.sb then 8 else 1
    ((List.range (cdiv v.kk step)).foldl (fun (acc : Option (Int × Int)) i =>
      match extremes (if v.mm = 0 then [] else v.expA bc (step * i)), extremes (if v.nn = 0 then [] else v.expB bc (step * i)) with
      | some (a0, a1), some (b0, b1) =>
        match acc with
        | none => some (a0 + b0, a1 + b1)
        | some (x, y) => some (min x (a0 + b0), max y (a1 + b1))
      | _, _ => acc) none).getD (0, 0)

/-- The anchor in use: given, or derived by R108. -/
def Env.findAnchor (v : Env) : BitVec 12 :=
  if bit v.nctl 20 then
    let (lo, hi) := v.emm
    let ca := v.sa.blk ≠ 0 && v.sa.sfmt = 1
    let cb := v.sb.blk ≠ 0 && v.sb.sfmt = 1
    BitVec.ofInt 12 (if v.opc = 0x13 then deriveAnchor v.a.fmt 0 ca false lo hi else deriveAnchor v.a.fmt v.b.fmt ca cb lo hi)
  else BitVec.ofNat 12 (bits v.nctl 8 12)

/-- The environment of a compute or TRACE record, with a given anchor. -/
def recEnv (m : Mem) (rx : List Byte) (a : BitVec 12) : Env :=
  { mkEnv m rx a with ectl := epiCtl rx, cvt := cvtCtl rx }

/-- The environment with its own anchor. -/
def envOf (m : Mem) (rx : List Byte) : Env :=
  let v := recEnv m rx 0
  { v with anchor := v.findAnchor }

/-! ### The numeric report of a command (R133) -/

/-- A report word as a report. -/
def repOf (w : W64) : Rep := ⟨bits w.toNat 0 16, bits w.toNat 16 16, bits w.toNat 32 16, bits w.toNat 48 16⟩

/-- Add to a report word. -/
def addRep (w : W64) (r : Rep) : W64 := ((repOf w).join r).word

/-! ### Group tables and privileged lists (R123, R201) -/

/-- The group table keeps R201: an entry of no rows names none, and no group's operand B overlaps an output of R208. -/
def groupsOk (c : Conf) (v : Env) : Bool :=
  let raw := (List.range v.groups.length).map fun i => leNat (rd v.m (wordAt v.rx 0x1D0 + 16 * i) 16)
  raw.all (fun w => bits w 108 20 = 0)
    && v.groups.all (fun g => g.cnt = 0 || g.m0 + g.cnt ≤ v.mm)
    && (v.groups.zip (v.groups.drop 1)).all (fun p => p.1.m0 < p.2.m0)
    && (let l := v.groups.filter (·.cnt ≠ 0); (l.zip (l.drop 1)).all fun p => p.1.m0 + p.1.cnt ≤ p.2.m0)
    && v.groups.all fun g =>
      let d := { v.b with addr := g.base }
      d.inRegion c && !v.o.overlaps d && (outScales v.rx :: topkBuf v.rx).all fun x => !d.meets x.2.1 x.2.2

/-! ### Workspace (R250, R251) -/

/-- Bytes of the workspace pool in use. -/
def poolUsed (s : State) : Nat :=
  (s.cmd.streams.map fun x => (x.2.journal.map fun e => match e.plan with | some p => p.wsBytes | none => 0).sum).sum

/-- The pool holds another workspace. -/
def poolFits (s : State) (n : Nat) : Bool := poolUsed s + n ≤ s.cfg.conf.wsp * 0x200000

/-! ### Publishing (R245, R260) -/

/-- The batches of a command leave the counter: its jobs are over. -/
def dropBatch (s : State) (st : Nat) (q : W64) : State :=
  let f (l : List Batch) : List Batch := l.filter fun b => !(b.st = st && b.seq = q)
  { s with til := { s.til with srv := f s.til.srv, trn := f s.til.trn } }

/-- Publish jobs of a phase, from its first to one before `stop`, to the end of the counter queue of its class (R260). The batch of the phase before,
which has no untaken index, leaves its place. -/
def publishTo (s : State) (st : Nat) (q : W64) (ph : PPhase) (stop : Nat) : State :=
  let b : Batch := ⟨st, q, ph.first, stop, []⟩
  let s := dropBatch s st q
  if serving (strmOf s st) then { s with til := { s.til with srv := s.til.srv ++ [b] } }
  else { s with til := { s.til with trn := s.til.trn ++ [b] } }

/-- Withdraw a command's untaken indices (R263). Those that were taken and returned by a tile that left (R264) still run. -/
def withdraw (s : State) (st : Nat) (q : W64) : State :=
  let f (l : List Batch) : List Batch := l.filterMap fun b =>
    if !(b.st = st && b.seq = q) then some b else if b.back = [] then none else some { b with stop := b.next }
  { s with til := { s.til with srv := f s.til.srv, trn := f s.til.trn } }

/-- The HBM blocks of 256 KiB that some ranges reach. The spec does not say where a stripe's blocks are cut: the model cuts them at multiples of their
size (log entry 116). -/
def blocksOf (l : List (Nat × Nat)) : List Nat :=
  (l.flatMap fun r => if hbmBase ≤ r.1 && r.2 ≠ 0 then (List.range ((r.1 + r.2 - 1) / 0x40000 - r.1 / 0x40000 + 1)).map (r.1 / 0x40000 + ·)
    else []).eraseDups

/-- The HBM blocks that a command's operands, their scales and vectors lie in (R284, R201), with whether each stays for the whole command: a block of
the sweep operand where stage_keep is 1 (R258). Every operand but the panel operand counts as the sweep operand. -/
def hbmBlocks (m : Mem) (rx : List Byte) (vo : Nat) : List (Nat × Bool) :=
  let descs (l : List (Desc × Bool)) : List (Nat × Nat) := l.flatMap fun d => match (if d.1.rem || d.2 then none else d.1.bytes) with | some r => [r] | none => []
  let scs (l : List ScArr) : List (Nat × Nat) := l.flatMap ScArr.strips
  let isB := bits vo 1 2 ≠ 0
  let ds := recDescs rx
  let a := descs (ds.take 1) ++ scs ((inScaleArrs rx).take 1)
  let b := descs (if rOpc rx = 0x11 then (groupList m rx).map fun g => ({ parseDesc rx 0x80 with addr := g.base }, false) else
      if mmLike (rOpc rx) then (ds.drop 1).take 1 else []) ++ (if mmLike (rOpc rx) then scs ((inScaleArrs rx).drop 1) else [])
  let rest := descs (ds.drop (if mmLike (rOpc rx) then 2 else 1)) ++ (if mmLike (rOpc rx) then [] else scs ((inScaleArrs rx).drop 1))
    ++ (vecBufs rx).map (·.2)
  let sweep := blocksOf ((if isB then a else b) ++ rest)
  ((sweep ++ blocksOf (if isB then b else a)).eraseDups).map fun x => (x, bit vo 24 && sweep.contains x)

/-- The plan registers of a stream (R271). -/
def planRegs (s : State) (st : Nat) (q : W64) (p : Plan) : State :=
  let w1 := BitVec.ofNat 64 (p.jobs + (sat 0xFFFF p.s) <<< 32 + (sat 15 p.phases.length) <<< 48)
  let w2 := BitVec.ofNat 64 ((cdiv p.wsBytes 1024) <<< 32)
  { s with til := { s.til with plans := tput s.til.plans st (q, w1, w2) (0, 0, 0) } }

/-! ### Planning (R241, R251, R268) -/

/-- A command writes nothing because a level has count 0 (R268). -/
def emptyShape (v : Env) : Bool :=
  let (bc, rows, cols, _) := v.shape
  bc = 0 || rows = 0 || (cols = 0 && v.opc ≠ 0x14)

/-- The latest completed generation of a program id (R167). -/
def latestGen (s : State) (pid : Nat) : Option (BitVec 32) :=
  ((s.til.progs.filter fun p => p.pid = pid && p.done).getLast?).map (·.gen)

/-- A command ends before its planning reads anything (R167, R268, R406): an empty shape before a program that is not loaded (log entry 130). -/
def planEarly (s : State) (rx : List Byte) : Option Status :=
  let v := recEnv s.mem rx 0
  if v.opc = 0x60 && !s.ras.io1 then some 0x0801
  else if v.opc ≠ 0x60 && emptyShape v then some 0
  else if v.opc = 0x15 && (latestGen s (rProg rx)).isNone then some 0x010F
  else none

/-- What planning decides. -/
inductive PlanRes where
  | ends (st : Status) (foff : Nat)
  | badWord (a : Nat)
  | plan (p : Plan)
deriving DecidableEq, Repr

/-- The ranges that planning reads: privileged list, group table, and the scales of a derived anchor (R109, R123, R201). -/
def planReads (rx : List Byte) : List (Nat × Nat) :=
  (listBufs rx).map (·.2) ++ (if bit (rNctl rx) 20 then (inScaleArrs rx).flatMap ScArr.strips else [])

/-- The words with a listed error that planning reads. -/
def planWords (m : Mem) (rx : List Byte) : List Nat := ((planReads rx).flatMap fun b => errWords m b.1 b.2).eraseDups

/-- The plan of a TRACE: one job for each selected output (R393). -/
def tracePlan (v : Env) : Plan :=
  { s := 1, kp := 0, lc := 0, nb := 0, blocks := [], phases := [⟨0, 0, fieldAt v.rx 0x208 0 32⟩], cur := 0, wsBytes := 0, anchor := v.findAnchor.toInt,
    pid := 0x60, gen := 0 }

/-- Plan a compute command or a TRACE (R109, R123, R167, R201, R241, R252, R268, R275, R393, R406). -/
def makePlan (s : State) (e : Entry) : PlanRes :=
  let rx := e.rx
  let v0 := recEnv s.mem rx 0
  let c := s.cfg.conf
  match planEarly s rx with
  | some f => .ends f 0
  | none => match (planWords s.mem rx).find? (badWord s.mem) with
    | some w => .badWord (w * 32)
    | none =>
      if mmLike v0.opc && !privOk s.mem rx v0.nn then .ends 0x0303 0
      else if v0.opc = 0x60 then .plan (tracePlan { v0 with opc := 0x10 })
      else if v0.opc = 0x11 && !groupsOk c v0 then .ends 0x010B 0x1D0
      else if v0.opc = 0x11 && !(v0.groups.all fun g => (dRng { v0.b with addr := g.base } false).all (rngOpen c)) then .ends 0x0501 0
      else
        let v := { v0 with anchor := v0.findAnchor }
        if v.opc = 0x15 then .plan (v.plan e.vo.toNat (usable s) c.wsCeil (BitVec.ofNat 16 (rProg rx)) ((latestGen s (rProg rx)).getD 0))
        else .plan (v.plan e.vo.toNat (usable s) c.wsCeil (BitVec.ofNat 16 v.opc) 0)

/-- Serving commands that wait for workspace are ahead of every Training one (R251). -/
def waitOrder (s : State) : List (Nat × W64) :=
  let isSrv (x : Nat × W64) : Bool := serving (strmOf s x.1)
  s.cmd.wsWait.filter isSrv ++ s.cmd.wsWait.filter (!isSrv ·)

/-! ### Running jobs -/

/-- Bits of word w that a list of writes covers. -/
def bitsOn (l : List (Nat × Nat × Nat)) (w : Nat) : Nat :=
  (l.map fun x => min (x.1 + x.2.1) (256 * w + 256) - max x.1 (256 * w)).sum

/-- Words with a listed error that are written whole are normal again (R293). -/
def clearWords (s : State) (f : Nat → Bool) : State :=
  { s with mem := ((s.mem.err.map (·.1)).filter f).foldl (fun m w => setErr m w 0) s.mem }

/-- Store the bits of a list (R67): what one job or one data movement writes counts together for R293, so that a word it writes whole is not
read (log entry 48). -/
def storeAll (s : State) (l : List (Nat × Nat × Nat)) : State :=
  l.foldl (fun s w => storeBits s w.1 w.2.1 w.2.2) (clearWords s fun w => bitsOn l w = 256)

/-- A program image of a generation (R170). -/
def imageOf (s : State) (pid : BitVec 16) (gen : BitVec 32) : Option (List Byte) :=
  (s.til.progs.find? fun p => p.pid = pid.toNat && p.gen = gen).map (·.img)

/-- The jobs of a RUN_PROGRAM's product phase run its program; every other job runs a library program (R140). -/
def isProgJob (e : Entry) (p : Plan) (j : Nat) : Bool :=
  rOpc e.bytes = 0x15 && (match p.phaseOf j with | some ph => ph.kind = 0 | none => false)

/-- An element of a descriptor, and a scale byte, as bits read. -/
def elBits (d : Desc) (t : List Nat) : Nat × Nat := (d.bitAddr t, d.width)
def scBits (b : Bsd) (role rows cols bi r c : Nat) : List (Nat × Nat) := if b.blk = 0 then [] else [(8 * b.addrOf role rows cols bi r c, 8)]

/-- The bits that the products of some rows and columns of a matrix command read. -/
def Env.sumReads (v : Env) (bi : Nat) (rs cs ks : List Nat) : List (Nat × Nat) :=
  let (db, sb) := v.bOf (v.grpOf (rs.headD 0))
  (rs.flatMap fun m => ks.flatMap fun i => elBits v.a (i :: m :: batchTuple v.o bi) :: scBits v.sa 0 v.mm v.kk bi m i)
    ++ cs.flatMap fun n => ks.flatMap fun i => elBits db (n :: i :: batchTuple v.o bi) :: scBits sb 1 v.kk v.nn bi i n

/-- The bits that an epilogue reads. -/
def Env.epiReads (v : Env) (bi : Nat) (rs cs : List Nat) : List (Nat × Nat) :=
  if bits v.ectl 0 2 = 1 then rs.flatMap fun m => cs.map fun n => elBits v.e (n :: m :: batchTuple v.o bi)
  else if bits v.ectl 0 2 = 2 then cs.flatMap fun n =>
    (if bit v.ectl 7 then [(8 * (wordAt v.rx 0x170 + 4 * n), 32)] else []) ++ (if bit v.ectl 8 then [(8 * (wordAt v.rx 0x178 + 4 * n), 32)] else [])
  else []

/-- The bits that job j of a TRACE reads (R392, R393): its selection entry and model reference, the row and the column of its output with what the
epilogue adds, and the output itself where it compares. -/
def Env.traceReads (v : Env) (j : Nat) : List (Nat × Nat) :=
  let sel := wordAt v.rx 0x200 % 2 ^ 44 + 16 * j
  let mref := wordAt v.rx 0x220 % 2 ^ 44
  let w := leNat (rd v.m sel 16)
  let (b, m, n) := (bits w 0 32, bits w 32 32, bits w 64 32)
  (8 * sel, 128) :: (if v.o.prod [2, 3, 4, 5] ≤ b || v.mm ≤ m || v.nn ≤ n then [] else
    (if mref = 0 then [] else [(8 * mref, 384)]) ++ v.sumReads b [m] [n] (List.range v.kk) ++ v.epiReads b [m] [n]
      ++ (if bit (wordAt v.rx 0x208) 33 then [elBits v.o (n :: m :: batchTuple v.o b)] else []))

/-- The bits that a library job reads: operands and scales of its products, operands of its epilogue (R140, R257). -/
def Env.jobReads (v : Env) (p : Plan) (vo j : Nat) : List (Nat × Nat) :=
  let (_, _, cols, k) := v.shape
  match p.phaseOf j with
  | none => []
  | some ph =>
    let (part, bi, mb, nb) := p.mapJob vo ph j
    let (rs, cs) := p.positions v mb nb cols
    let pos := rs.flatMap fun m => cs.map fun n => (m, n)
    let epi : List (Nat × Nat) := if v.opc = 0x13 then [] else v.epiReads bi rs cs
    if v.opc = 0x60 then v.traceReads j
    else if ph.kind = 1 then epi
    else if 2 ≤ ph.kind then []
    else if v.opc = 0x12 then
      let op := if v.sub = 0x12 then 9 else v.sub
      let one (d : Desc) (b : Bsd) : List (Nat × Nat) := pos.flatMap fun x =>
        elBits d (x.2 :: x.1 :: batchTuple v.o bi) :: scBits b 3 (d.count 1) (d.count 0) bi x.1 x.2
      one v.a v.sa ++ (if op ≤ 5 ∨ op = 7 ∨ op = 8 then one v.b v.sb else []) ++ (if op = 4 then one v.e {} else [])
    else if v.opc = 0x14 then pos.map fun x => elBits v.a ((if bit v.kctl 9 then [x.1, x.2] else [x.2, x.1]) ++ batchTuple v.a bi)
    else
      let ks := (List.range k).filter fun i => p.s = 1 || (part * p.kp * p.lc ≤ i && i < (part + 1) * p.kp * p.lc)
      let sums : List (Nat × Nat) :=
        if v.opc = 0x13 then pos.flatMap fun x => ks.flatMap fun i =>
          let t := v.redTuple (v.outTuple bi x.1 x.2) i
          elBits v.a t :: (match v.redAddr t with | some a => [(8 * a, 8)] | none => [])
        else v.sumReads bi rs cs ks
      sums ++ (if p.s = 1 then epi else [])

/-- Every job of a phase is drained. -/
def phaseDone (e : Entry) (ph : PPhase) : Bool := (List.range ph.jobs).all fun i => e.drained.contains (ph.first + i)

/-- The current phase of a command. -/
def curPhase (p : Plan) : Option PPhase := p.phases[p.cur]?

/-- The first uncorrectable word that a job's writes cover only in part, as its command does (R296). -/
def partBad (m : Mem) (rx : List Byte) (l : List (Nat × Nat × Nat)) : Option Nat :=
  ((namedErr m rx).find? fun w => badWord m w && bitsOn l w ≠ 0 && partWord m rx w).map (· * 32)

/-! ### Staging (R258, R284 to R287) -/

/-- The staging slots (R274). -/
def stageSlots (c : Conf) : Nat := rgnSize c 1 * 8

/-- The panel of a job (R257), counted on through the batch indices. -/
def panelOf (e : Entry) (p : Plan) (ph : PPhase) (j : Nat) : Nat :=
  if rOpc e.bytes = 0x60 then 0 else
  let vo := e.vo.toNat
  let (_, b, mb, nb) := p.mapJob vo ph j
  let w := 2 ^ bits vo 3 4
  if bits vo 1 2 = 0 then b * cdiv p.blocks.length w + mb / w else b * cdiv p.nb w + nb / w

/-- The panel of a job of any phase. -/
def jobPan (e : Entry) (p : Plan) (j : Nat) : Nat := match p.phaseOf j with | some ph => panelOf e p ph j | none => 0

/-- What a job needs staged: the HBM blocks of the operand elements and scales of its extents, a tile program's as a matrix command's (R144), each with
the panel that it is staged for, and no more than the region holds. -/
def jobBlocks (s : State) (e : Entry) (p : Plan) (j : Nat) : List (Nat × Option Nat) :=
  if e.blocks = [] then []
  else
    let r := (recEnv s.mem e.rx (BitVec.ofInt 12 p.anchor)).jobReads p e.vo.toNat j
    let l := (r.flatMap fun x => if hbmBase ≤ x.1 / 8 then [x.1 / 8 / 0x40000, ((x.1 + x.2 - 1) / 8) / 0x40000] else []).eraseDups
    (l.take (stageSlots s.cfg.conf)).map fun b => (b, if e.blocks.contains (b, true) then none else some (jobPan e p j))

/-- The key of a staged block. -/
def SBlock.key (b : SBlock) : Nat × Option Nat := (b.blk, b.pan)

/-- The blocks of a command that stand staged. -/
def stagedBlks (s : State) (st : Nat) (q : W64) : List SBlock := s.til.stage.filter fun b => b.st = st && b.seq = q

/-- Those of them that a job of a panel reads; of any panel where none is named. -/
def panBlks (s : State) (st : Nat) (q : W64) (pan : Option Nat) : List SBlock :=
  let l := (stagedBlks s st q).filter fun b => pan = none || b.pan = none || b.pan = pan
  l.filter fun b => l.find? (·.blk = b.blk) = some b

/-- Memory as a command's jobs of a panel read it: the blocks that it has staged hold the HBM bytes as they stood at their staging (R285). They are
presented under their HBM addresses (log entry 36). -/
def stagedMem (s : State) (st : Nat) (q : W64) (pan : Option Nat) : Mem :=
  let l := panBlks s st q pan
  if l = [] then s.mem
  else
    let base (b : SBlock) : Nat := rgnBase s.cfg.conf 1 * page + 0x40000 * b.slot
    let shift (α : Type) (u : Nat) (f : α → α) (t : List (Nat × α)) : List (Nat × α) :=
      t.filter (fun c => !l.any fun b => b.blk = c.1 * u / 0x40000)
        ++ l.flatMap fun b => (t.filter fun c => base b ≤ c.1 * u && c.1 * u < base b + 0x40000).map fun c =>
            ((c.1 * u - base b + 0x40000 * b.blk) / u, f c.2)
    { s.mem with cells := shift Byte 1 id s.mem.cells, err := shift (BitVec 288) 32 (relay true) s.mem.err,
                 slots := s.mem.slots.filter fun x => !l.any fun b =>
                   (rowWords (x.1 / 0x20000000) (x.1 % 0x20000000)).any fun w => w * 32 / 0x40000 = b.blk }

/-- The word of memory that a job of a command meets where it reads word w. -/
def stagedWord (s : State) (st : Nat) (q : W64) (pan : Option Nat) (w : Nat) : Nat :=
  match (panBlks s st q pan).find? fun b => b.blk = w * 32 / 0x40000 with
  | some b => (rgnBase s.cfg.conf 1 * page + 0x40000 * b.slot + w * 32 % 0x40000) / 32
  | none => w

/-- Every block that a job reads is staged. -/
def jobReady (s : State) (st : Nat) (e : Entry) (p : Plan) (j : Nat) : Bool :=
  let l := (stagedBlks s st e.seq).map SBlock.key
  (jobBlocks s e p j).all l.contains

/-- The jobs of a phase that may be published: those before the first whose blocks are not all staged (R287). -/
def availTo (s : State) (st : Nat) (e : Entry) (p : Plan) (ph : PPhase) : Nat :=
  ph.first + (if e.blocks = [] then ph.jobs
    else (((List.range ph.jobs).map (ph.first + ·)).takeWhile fun j => e.drained.contains j || jobReady s st e p j).length)

/-- Publish a phase of a command as far as its blocks are staged. -/
def publish (s : State) (st : Nat) (q : W64) (ph : PPhase) : State :=
  match cmdOf s st q with
  | some e => match e.plan with
    | some p => publishTo s st q ph (availTo s st e p ph)
    | none => s
  | none => s

/-- More blocks are staged: the command's batch grows (R287), unless the command has stopped (R263). -/
def growBatch (s : State) (st : Nat) (q : W64) : State :=
  match (cmdOf s st q).bind fun e => if e.stop.isSome then none else e.plan.bind fun p => (curPhase p).map fun ph => availTo s st e p ph with
  | none => s
  | some n =>
    let f (l : List Batch) : List Batch := l.map fun b => if b.st = st && b.seq = q then { b with stop := max b.stop n } else b
    { s with til := { s.til with srv := f s.til.srv, trn := f s.til.trn } }

/-- Jobs of a phase that have been taken and are not drained. -/
def takenJobs (s : State) (st : Nat) (e : Entry) : List Nat :=
  s.til.tiles.flatMap fun t => [t.2.job, t.2.reserve].filterMap fun x => match x with
    | some j => if !j.ballast && j.st = st && j.seq = e.seq then some j.idx else none
    | none => none

/-- What the staging engines fetch now (R258): what undrained jobs need up to stage_ahead panels beyond the panel of the highest index taken, and
the first undrained job, as far as the region holds it. -/
def wantedKeys (s : State) (st : Nat) (e : Entry) : List (Nat × Option Nat) :=
  match e.plan.bind fun p => (curPhase p).map fun ph => (p, ph) with
  | none => []
  | some (p, ph) =>
    let left := ((List.range ph.jobs).map (ph.first + ·)).filter fun j => !e.drained.contains j
    let hi := (takenJobs s st e ++ e.drained.filter fun j => ph.first ≤ j && j < ph.first + ph.jobs).foldl max ph.first
    let lim := max (panelOf e p ph hi + bits e.vo.toNat 20 4) (match left.head? with | some j => panelOf e p ph j | none => 0)
    let have_ := (stagedBlks s st e.seq).map SBlock.key
    ((((left.filter fun j => panelOf e p ph j ≤ lim).flatMap (jobBlocks s e p)).eraseDups).take (stageSlots s.cfg.conf)).filter fun b => !have_.contains b

/-- Their blocks. -/
def wantedBlks (s : State) (st : Nat) (e : Entry) : List Nat := (wantedKeys s st e).map (·.1)

/-- The staged blocks of a command that no undrained job of its current phase needs up to an index, or up to the first that satisfies a condition. -/
def spareBlks (s : State) (st : Nat) (e : Entry) (needs : Nat → Bool) : List SBlock :=
  match e.plan.bind fun p => (curPhase p).map fun ph => (p, ph) with
  | none => stagedBlks s st e.seq
  | some (p, ph) =>
    let left := ((List.range ph.jobs).map (ph.first + ·)).filter fun j => !e.drained.contains j
    let need := (left.filter needs).flatMap (jobBlocks s e p)
    (stagedBlks s st e.seq).filter fun b => !need.contains b.key

/-- The staged blocks of another command that none of its published jobs needs. -/
def unpubBlks (s : State) (b : Batch) : List SBlock :=
  match cmdOf s b.st b.seq with
  | none => []
  | some e => spareBlks s b.st e fun j => j < b.stop || b.back.contains j

/-- A block whose slot the engines take back so that staging progresses (R287, log entry 116): of the command itself one that no job up to the first that
wants the new block needs, else of a command that comes later in the counter's order one that no published job needs. -/
def stageVictim (s : State) (st : Nat) (e : Entry) (k : Nat × Option Nat) : Option SBlock :=
  let first := match e.plan.bind fun p => (curPhase p).map fun ph => (p, ph) with
    | none => 0
    | some (p, ph) => ((((List.range ph.jobs).map (ph.first + ·)).filter fun j => !e.drained.contains j).find? fun j => (jobBlocks s e p j).contains k).getD 0
  match (spareBlks s st e (· ≤ first)).getLast? with
  | some b => some b
  | none =>
    let later := ((s.til.srv ++ s.til.trn).dropWhile fun b => !(b.st = st && b.seq = e.seq)).drop 1
    (later.flatMap (unpubBlks s)).getLast?

/-- A slot for a block (R287): a free one, or one that is taken back. -/
def stageSlot (s : State) (st : Nat) (e : Entry) (k : Nat × Option Nat) : Option (State × Nat) :=
  match (List.range (stageSlots s.cfg.conf)).find? fun i => !s.til.stage.any (·.slot = i) with
  | some i => some (s, i)
  | none => (stageVictim s st e k).map fun b => ({ s with til := { s.til with stage := s.til.stage.filter (· ≠ b) } }, b.slot)

/-- A staging engine copies an HBM block into a slot (R284, R295): corrected words are written back, and a word that is uncorrectable is poisoned
in the stack and in the slot. -/
def stageBlock (s : State) (st : Nat) (q : W64) (blk : Nat) (pan : Option Nat) (slot : Nat) : State :=
  let a := blk * 0x40000
  let d := rgnBase s.cfg.conf 1 * page + 0x40000 * slot
  let bad := (errWords s.mem a 0x40000).filter (badWord s.mem)
  let s := (errWords s.mem a 0x40000).foldl meetWord s
  let cs := (s.mem.cells.filter fun c => a ≤ c.1 && c.1 < a + 0x40000).map fun c => (c.1 - a + d, c.2)
  let m : Mem := { s.mem with cells := cs.foldl (fun t c => tput t c.1 c.2 0) (tdrop s.mem.cells d (d + 0x40000)), err := tdrop s.mem.err (d / 32) ((d + 0x40000) / 32) }
  let m := bad.foldl (fun m w => setErr m ((w * 32 - a + d) / 32) (poisonPat false)) m
  let s := (List.range 4).foldl (fun s k => addBw s k 2 0x10000) (addStk s (hbmMap a).1 false 0x40000)
  { s with mem := m, til := { s.til with stage := s.til.stage ++ [⟨st, q, blk, slot, pan⟩] } }

/-- At a drain those staged blocks of the command are freed that no undrained job of it needs (R285): a block that is staged for a panel goes with the
panel's last job that reads it (R258). -/
def freeBlocks (s : State) (st : Nat) (q : W64) : State :=
  match cmdOf s st q with
  | none => s
  | some e =>
    if e.blocks = [] then s
    else match e.plan with
      | none => s
      | some p =>
        let need := ((p.phases.flatMap fun x => (List.range x.jobs).map (x.first + ·)).filter fun i => !e.drained.contains i).flatMap (jobBlocks s e p)
        { s with til := { s.til with stage := s.til.stage.filter fun b => !(b.st = st && b.seq = q && !need.contains b.key) } }

/-- A command ends: its staged blocks are freed (R285). -/
def dropBlocks (s : State) (st : Nat) (q : W64) : State :=
  { s with til := { s.til with stage := s.til.stage.filter fun b => !(b.st = st && b.seq = q) } }

/-- Outputs of drained jobs reach HBM, or in place their destination (R222, R286); those of a job that is being compared wait (R433). They pass through the staging region or the workspace: their drains
there count in class 1 and the engines' copies in class 2, of slices that the spec does not name (R304, log entry 46). -/
def copyOut (s : State) (st : Nat) (q : W64) : State :=
  match cmdOf s st q with
  | none => s
  | some e =>
    let l := (e.copies.filter fun x => !e.shadowed.contains x.1).flatMap (·.2)
    if l = [] then s
    else
      let bad := partBad s.mem e.rx l
      let s := match bad with | some a => meetQuiet s (a / 32) | none => s
      let s := storeAll (tallyBits s 1 true l) l
      let n := ((l.filter fun x => hbmBase ≤ x.1 / 8).map (·.2.1)).sum / 8
      let s := addSome (addSome s 1 n) 2 n
      modCmd s st q fun e => { e with copies := e.copies.filter fun x => e.shadowed.contains x.1, stop := if e.stop.isSome then e.stop else bad.map .uncorr }

/-- Job j of the command is shadowed (R432); of a bound stream every job is, from a replay to the next complete snapshot (R481). -/
def shadowed (s : State) (e : Entry) (st j : Nat) : Bool :=
  let t := match (if s.job.replay && bound s st then 5 else e.shd) with | 1 => 1 | 2 => 4 | 3 => 16 | 4 => 64 | 5 => 128 | _ => 0
  (ditherW [BitVec.ofNat 32 e.seq.toNat, BitVec.ofNat 32 (e.seq.toNat >>> 32), BitVec.ofNat 32 st, 0x53480000, BitVec.ofNat 32 j, 0, 0]).toNat % 128 < t

/-- Record a job as drained (R220, R271). -/
def markDrained (s : State) (st : Nat) (q : W64) (j : Nat) : State :=
  let new := match cmdOf s st q with | some e => !e.drained.contains j | none => false
  let s := freeBlocks (modCmd s st q fun e => { e with drained := if e.drained.contains j then e.drained else j :: e.drained,
                                                       shadowed := e.shadowed.filter (· ≠ j) }) st q
  let p := tget s.til.plans st (0, 0, 0)
  if new && p.1 = q then { s with til := { s.til with plans := tput s.til.plans st (p.1, p.2.1, p.2.2 + 1) (0, 0, 0) } } else s

/-- The words with a listed error that the elements of a local descriptor at some tuples cover whole. -/
def descWhole (m : Mem) (d : Desc) (keep : List Nat → Bool) : List Nat :=
  if d.rem then [] else match d.bytes with
    | none => []
    | some (a, n) =>
      let l := errWords m a n
      if l = [] then [] else
        let bs := (List.range d.total).flatMap fun i =>
          let t := tupleOf d.counts i
          let b := d.bitAddr t
          if keep t then (List.range ((b + d.width - 1) / 8 - b / 8 + 1)).map (b / 8 + ·) else []
        l.filter fun w => (List.range 32).all fun i => bs.contains (w * 32 + i)

/-- The rows that a command writes: of a GMATMUL those of its groups (R201). -/
def rowWritten (m : Mem) (rx : List Byte) (t : List Nat) : Bool :=
  rOpc rx ≠ 0x11 || (groupList m rx).any fun g => g.m0 ≤ t.getD 1 0 && t.getD 1 0 < g.m0 + g.cnt

/-- All jobs of the plan are drained: its effects are over, and the words that its output covers are written whole (R293, log entry 48). -/
def settle (s : State) (st : Nat) (q : W64) : State :=
  match cmdOf s st q with
  | some e => match e.plan with
    | some p => if p.phases.all (phaseDone e) then
        let l := if rOpc e.bytes = 0x14 then [] else descWhole s.mem (parseDesc e.rx 0xC0) (rowWritten s.mem e.rx)
        modCmd (clearWords s l.contains) st q fun e => { e with ran := true }
      else s
    | none => s
  | none => s

/-- A job met an uncorrectable word (R296): the command issues no further job. -/
def uncorrStop (s : State) (st : Nat) (q : W64) (a : Nat) : State :=
  withdraw (modCmd s st q fun e => if e.stop.isSome then e else { e with stop := some (.uncorr a) }) st q

/-- The writes of a tile program (R40, R286): those to the Serai happen, those bound for HBM wait for their copy. A partial write to an uncorrectable
word stops the command (R296). -/
def progStore (s : State) (st : Nat) (q : W64) (j : Nat) (w : List (Nat × Nat × Nat)) : State :=
  let now := w.filter fun x => x.1 / 8 < hbmBase
  let later := w.filter fun x => hbmBase ≤ x.1 / 8
  let bad := (cmdOf s st q).bind fun e => partBad s.mem e.rx now
  let s := match bad with | some a => uncorrStop (meetQuiet s (a / 32)) st q a | none => s
  let s := storeAll (tallyBits s 1 true now) now
  if later = [] then s else modCmd s st q fun e => { e with copies := e.copies ++ [(j, later)] }

/-- A job failed its schedule audit (R161, R162): the failed job of least index is kept, and the command issues no further job. -/
def schedStop (s : State) (st : Nat) (q : W64) (j : Nat) (r : W64 × W64 × W64 × W64) : State :=
  let new : Stop := .sched j r.1 r.2.1 r.2.2.1 r.2.2.2
  let s := modCmd s st q fun e => { e with stop := match e.stop with
    | none => some new
    | some (.sched i a b c d) => if j < i then some new else some (.sched i a b c d)
    | some x => some x }
  withdraw s st q

/-- The cells that a record's inputs list. -/
def inputCells (m : Mem) (rx : List Byte) : List (Nat × Byte) :=
  let l := (namedRanges rx).filter (!·.w)
  m.cells.filter fun x => l.any fun r => r.a ≤ x.1 && x.1 < r.a + r.n

/-- A record as its outputs depend on it: of a MATMUL and of a TRACE, which computes what the MATMUL does (R390), the opcode, the numeric, epilogue and
conversion control, the seed and the operands, with the TRACE's coordinate offsets. -/
def levelRec (rx : List Byte) : List Byte :=
  if rOpc rx = 0x10 || rOpc rx = 0x60 then
    natLe 16 0x10 ++ slice rx 0x10 16 ++ natLe 8 0 ++ natLe 8 (epiCtl rx) ++ natLe 16 (cvtCtl rx) ++ slice rx 0x40 0x1C0
      ++ (if rOpc rx = 0x60 then slice rx 0x228 12 else natLe 12 0)
  else rx

/-- The value of an output element under a numerics level other than NL1, at its bit address (R2, R4, R390, log entry 104). -/
def levelEl (m : Mem) (rx : List Byte) (ba : Nat) : Nat := Config.levelOut (nlOf rx) (levelRec rx) (inputCells m (levelRec rx)) ba

/-- The output bits of a command under its numerics level: NL1 is this spec's; under another level they are free (R2, R4, log entry 104). -/
def levelWrites (m : Mem) (rx : List Byte) (l : List (Nat × Nat × Nat)) : List (Nat × Nat × Nat) :=
  if nlOf rx = 1 then l else l.map fun x => (x.1, x.2.1, levelEl m rx x.1)

/-- The numeric report of a command under its numerics level (log entry 104). -/
def levelReport (m : Mem) (rx : List Byte) (w : W64) : W64 := if nlOf rx = 1 then w else Config.levelRep (nlOf rx) rx (inputCells m rx)

/-- An in-place EWISE (R208): its output is also one of its inputs. -/
def inPlace (rx : List Byte) : Bool := rOpc rx = 0x12 && ((recDescs rx).filter (!·.2)).any fun d => d.1 = parseDesc rx 0xC0

/-- The result of a job reaches its command: its writes, its workspace, its report, which a job that runs again does not count twice; a trap stops
the command (R129), an in-place job and outputs bound for HBM are staged first (R222, R286), a shadowed job waits for its comparison (R433). -/
def commitJob (s : State) (st : Nat) (q : W64) (e : Entry) (j : Nat) (r : JobRes) : State :=
  let part := partBad s.mem e.rx r.wr
  let wr := levelWrites s.mem e.rx r.wr
  let later (x : Nat × Nat × Nat) : Bool := inPlace e.rx || hbmBase ≤ x.1 / 8
  let now := wr.filter (!later ·)
  let s := match part with | some a => meetQuiet s (a / 32) | none => s
  let s := addSome (match r.work with | some w => addSome s 1 w.bytes | none => s) 0 r.read
  let s := modCmd (storeAll (tallyBits s 1 true now) now) st q fun e =>
    { e with copies := if wr.any later then e.copies ++ [(j, wr.filter later)] else e.copies,
              nrep := if e.shadowed.contains j || e.redo.contains j then e.nrep else levelReport s.mem e.rx (addRep e.nrep r.rep),
             work := match r.work with | some w => tput e.work j w (.words []) | none => e.work,
             staged := if inPlace e.rx then j :: e.staged else e.staged,
             stop := if e.stop.isSome then e.stop else if r.trap ≠ 0 then some (.trap r.trap) else part.map .uncorr }
  let s := if r.trap ≠ 0 || part.isSome then withdraw s st q else s
  if shadowed s e st j then modCmd s st q fun e => { e with shadowed := if e.shadowed.contains j then e.shadowed else j :: e.shadowed }
  else settle (markDrained s st q j) st q

/-- The context of job j of a command's plan under a program image. -/
def jobCtx (s : State) (st : Nat) (e : Entry) (p : Plan) (img : List Byte) (j : Nat) : JCtx :=
  let pan := some (jobPan e p j)
  { progCtx s.cfg.conf (intState s) (recEnv (stagedMem s st e.seq pan) e.rx (BitVec.ofInt 12 p.anchor)) img p e.vo.toNat j with
    stg := (panBlks s st e.seq pan).map (·.blk) }

/-- Run a program job from its first bundle to its END. On a failed audit, which of the tiles in service ran it is a free value. -/
def drainProg (s : State) (st : Nat) (q : W64) (e : Entry) (p : Plan) (j : Nat) : State :=
  match imageOf s p.pid p.gen with
  | none => s
  | some img =>
    let c := jobCtx s st e p img j
    let pan := some (jobPan e p j)
    let (t, w, f) := runProg progFuel c (stagedMem s st q pan) (freshTile {}) []
    let s := meetFor s (t.met.eraseDups.map (stagedWord s st q pan)) (t.bad.map fun a => stagedWord s st q pan (a / 32) * 32)
    let s := match t.bad with | some a => uncorrStop s st q a | none => s
    match f, t.bad with
    | some f, _ =>
      let (s, tile) := someTile s
      schedStop (progStore s st q j w) st q j (faultRegs f tile t.bundle t.tcy j st (rTag e.bytes))
    | none, some _ => progStore s st q j w
    | none, none => commitJob s st q e j (progRes c p t w)

/-- A library job meets the words in error that it reads (R294, R295): the first that is uncorrectable is told. -/
def meetJob (s : State) (st : Nat) (e : Entry) (p : Plan) (j : Nat) : State × Option Nat :=
  let pan := some (jobPan e p j)
  let m := stagedMem s st e.seq pan
  let l := namedErr m e.rx
  if l = [] then (s, none)
  else
    let r := (recEnv m e.rx (BitVec.ofInt 12 p.anchor)).jobReads p e.vo.toNat j
    let ws := l.filter fun w => r.any fun x => x.1 < 256 * w + 256 && 256 * w < x.1 + x.2
    let bad := ws.find? (badWord m)
    (meetFor s (ws.map (stagedWord s st e.seq pan)) (bad.map fun w => stagedWord s st e.seq pan w * 32), bad.map (· * 32))

/-- A library job of a command's plan (R140), with the error pattern that its drain meets. -/
def libJob (s : State) (st : Nat) (e : Entry) (p : Plan) (j : Nat) (dev : List (Nat × BitVec 192)) : JobRes :=
  { recEnv (stagedMem s st e.seq (some (jobPan e p j))) e.rx (BitVec.ofInt 12 p.anchor) with dev := dev }.job p e.vo.toNat e.work j

/-- Drain one job of a plan. -/
def drainJob (s : State) (st : Nat) (q : W64) (j : Nat) : State :=
  match cmdOf s st q with
  | none => s
  | some e =>
    match e.plan with
    | none => s
    | some p =>
      if e.drained.contains j then s
      else if isProgJob e p j then drainProg s st q e p j
      else
        let (s, bad) := meetJob s st e p j
        match bad with
        | some a => uncorrStop s st q a
        | none => commitJob s st q e j (libJob s st e p j [])

/-- One of the tiles that take jobs ran a job of a run row (R270): which one is a free value. -/
def tallyJob (s : State) : State :=
  let (s, t) := someTile s
  modTile s t fun x => { x with jobs := x.jobs + 1 }

/-- A job is held at a failed check: it drains by its replays only (R142, R421). -/
def isHeld (s : State) (st : Nat) (q : W64) (j : Nat) : Bool := s.ras.held.any fun h => h.job.st = st && h.job.seq = q && h.job.idx = j

/-- Run every job of the current phase that is neither drained, nor being compared, nor held. -/
def runPhase (s : State) (st : Nat) (q : W64) (ph : PPhase) : State :=
  (List.range ph.jobs).foldl (fun s i =>
    match cmdOf s st q with
    | some e =>
      let ready := e.blocks = [] || (match e.plan with | some p => jobReady s st e p (ph.first + i) | none => false)
      if e.stop.isSome || e.drained.contains (ph.first + i) || e.shadowed.contains (ph.first + i) || !ready || isHeld s st q (ph.first + i) then s
      else tallyJob (drainJob s st q (ph.first + i))
    | none => s) s

/-- Advance to the next phase where the current one is drained (R245). -/
def stepPhase (s : State) (st : Nat) (q : W64) : Option State :=
  match cmdOf s st q with
  | some e => match e.plan with
    | some p => match curPhase p with
      | some ph => if phaseDone e ph && p.cur + 1 < p.phases.length && e.stop.isNone
          then some (modCmd s st q fun e => { e with plan := some { p with cur := p.cur + 1 } }) else none
      | none => none
    | none => none
  | none => none

/-- Run the remaining phases in order (R245), as far as no comparison or stop holds them. -/
def runPhases : Nat → State → Nat → W64 → State
  | 0, s, _, _ => s
  | n + 1, s, st, q =>
    match cmdOf s st q with
    | some e => match e.plan with
      | some p => match curPhase p with
        | some ph =>
          let s := runPhase s st q ph
          match stepPhase s st q with
          | some s => runPhases n s st q
          | none => s
        | none => s
      | none => s
    | none => s

/-- Run a planned compute command on the tiles in service, as far as its operands are staged (R284, R287). -/
def runCompute (s : State) (st : Nat) (q : W64) : State :=
  match cmdOf s st q with
  | none => s
  | some e =>
    match e.plan with
    | none => s
    | some p => if e.stop.isSome || usable s = 0 then s else
      let s := copyOut (runPhases (p.phases.length + 1) s st q) st q
      match cmdOf s st q with
      | some e => if e.stop.isSome then withdraw s st q else if e.blocks = [] || e.ran then dropBatch s st q else s
      | none => s

/-! ### Planning a command -/

/-- Plan a started command, or let it wait for workspace (R251); publish its first phase once its blocks are staged (R284). A plan without a job is over
at once (R243). A command that stopped waits no more. -/
def planCmd (s : State) (st : Nat) (q : W64) : State :=
  match cmdOf s st q with
  | none => { s with cmd := { s.cmd with wsWait := s.cmd.wsWait.filter (· ≠ (st, q)) } }
  | some e =>
    let r := makePlan s e
    let off : State := { s with cmd := { s.cmd with wsWait := s.cmd.wsWait.filter (· ≠ (st, q)) } }
    if e.stop.isSome || e.ran then off else
    let off := if (planEarly s e.rx).isSome then off
      else meetFor ((planReads e.rx).foldl (fun s b => tally s 5 false b.1 b.2) off) (planWords s.mem e.rx) (match r with | .badWord a => some a | _ => none)
    match r with
    | .ends f o => modCmd off st q fun e => { e.finish f with foff := o }
    | .badWord a => modCmd off st q fun e => { e with stop := some (.uncorr a) }
    | .plan p =>
      if !poolFits s p.wsBytes then
        (if s.cmd.wsWait.contains (st, q) then s else { s with cmd := { s.cmd with wsWait := s.cmd.wsWait ++ [(st, q)] } })
      else
        let bl := hbmBlocks off.mem e.rx e.vo.toNat
        let s := planRegs (modCmd off st q fun e => { e with plan := some p, blocks := bl, gen := some p.gen }) st q p
        settle (publish s st q (p.phases.headD ⟨0, 0, 0⟩)) st q

/-! ### Starting (R223, R231, R275) -/

/-- Data movement and compute commands, which alone may overlap (R223). -/
def overlappable (r : List Byte) : Bool := famOf (rOpc r) = some 0 || famOf (rOpc r) = some 1

/-- The entry at index i may start: every earlier command is done, or runs beside it without conflict (R223). -/
def turnOk (s : State) (x : Stream) (i : Nat) (e : Entry) : Bool :=
  ((x.journal.take i).filter (!·.refused)).all fun p =>
    p.st = .done || p.st = .completed
      || (p.st = .running && overlappable p.bytes && overlappable e.bytes && !conflict (touched s p.rx) (touched s e.rx))

/-- A stream's commands may start (R42, R51, R188, R194, R475). -/
def startable (s : State) (st : Nat) : Bool :=
  let x := strmOf s st
  ready s && x.opened && !x.paused && !(bound s st && 2 ≤ s.job.st)

/-- The breakpoint watches a stream (R231). -/
def watches (b : Brk) (st : Nat) : Bool := bit b.ctl.toNat 2 || bits b.ctl.toNat 16 16 = st

/-- A breakpoint matches a command about to start: by count or by tag (R231). -/
def brkHit (b : Brk) (st : Nat) (e : Entry) : Bool :=
  watches b st && !b.pass.contains (st, e.seq)
    && ((bit b.ctl.toNat 0 && b.cnt = 0)
      || (bit b.ctl.toNat 1 && ((bits b.tag.toNat 0 16 ^^^ rTag e.bytes) &&& bits b.tag.toNat 16 16) = 0))

/-- Pause the watched streams (R231). -/
def pauseWatched (s : State) (p : Bool) : State :=
  let l := s.cmd.streams.map fun x => if watches s.cmd.brk x.1 && x.2.opened then (x.1, { x.2 with paused := p }) else x
  { s with cmd := { s.cmd with streams := l } }

/-- A break (R231, R232). -/
def breakAt (s : State) (st : Nat) (e : Entry) : State :=
  let b := s.cmd.brk
  let ctl := setBits b.ctl 3 1 1
  let ctl := if bit b.ctl.toNat 0 && b.cnt = 0 then setBits ctl 0 1 0 else ctl
  let s := pauseWatched s true
  let hit := BitVec.ofNat 64 (st + rTag e.bytes <<< 16 + rOpc e.bytes <<< 32)
  let b' := { b with ctl := ctl, hit := hit, seq := e.seq, pass := (st, e.seq) :: b.pass }
  let s := { s with cmd := { s.cmd with brk := b' } }
  fire s (bits b.ctl.toNat 32 11)

/-- The records that a command reads at its start (R309, R315), with the first uncorrectable address among them, whose event is the command's. -/
def readRecs (s : State) (rx : List Byte) : State × List (Nat × List Byte) × Option Nat :=
  (startRecs rx).foldl (fun (acc : State × List (Nat × List Byte) × Option Nat) a =>
    let bad := firstBad acc.1.mem a 128
    let s := meetFor (tally acc.1 2 false a 128) (errWords acc.1.mem a 128) (if acc.2.2.isSome then none else bad)
    (s, acc.2.1 ++ [(a, rd s.mem a 128)], acc.2.2.or bad)) (s, [], none)

/-- The bookkeeping of a group's DISPATCH is freed when its COMBINE completes (R380), here one that ends before its exchange. -/
def freeBook (s : State) (rx : List Byte) : State :=
  if rOpc rx = 0x24 then { s with lnk := { s.lnk with disp := s.lnk.disp.filter (·.1 ≠ fieldAt rx 0xC0 0 12) } } else s

/-- A command starts: the count steps, R275 and R297 are checked, compute commands are planned. -/
def startCmd (s : State) (st i : Nat) (e : Entry) : State :=
  let b := s.cmd.brk
  let b := if watches b st && bit b.ctl.toNat 0 && b.cnt ≠ 0 then { b with cnt := b.cnt - 1 } else b
  let s := { s with cmd := { s.cmd with brk := { b with pass := b.pass.filter (· ≠ (st, e.seq)) } } }
  let rx := e.rx
  let run (s : State) (f : Entry → Entry) : State := modEntry s st i fun e => f { e with st := .running }
  if !((namedRanges rx).all (rngOpen s.cfg.conf)) then run (freeBook s rx) fun e => e.finish 0x0501
  else match lostNamed s rx with
    | some a => run s fun e => { e with stop := some (.lost a) }
    | none =>
      let (s, recs, bad) := readRecs s rx
      match bad with
      | some a => run s fun e => { e with recs := recs, stop := some (.uncorr a) }
      | none =>
        let s := run s fun e => { e with recs := recs }
        if famOf (rOpc rx) = some 1 || rOpc rx = 0x60 then planCmd s st e.seq else s

/-- The first accepted entry of a stream in its turn. -/
def nextStart (s : State) (st : Nat) : Option (Nat × Entry) :=
  let x := strmOf s st
  match x.journal.findIdx? fun e => !e.refused && e.st = .accepted with
  | some i => match x.journal[i]? with
    | some e => if startable s st && turnOk s x i e && !(rOpc e.bytes = 0x50 && bound s st && s.job.cur.isSome) then some (i, e) else none
    | none => none
  | none => none

/-! ### Poisoned outputs (R129, R296) -/

/-- The NaN scale of a format (R69, R70): what a poisoned output's scale bytes hold. R129 says so of FP4 and FP6; for FP8 it is the model's choice (log
entry 121). -/
def nanScale (sfmt : Nat) : Nat := if sfmt = 0 then 0xFF else 0x7F

/-- Poison every element of a descriptor: control traffic (R304, log entry 46). -/
def poisonDesc (s : State) (d : Desc) (a : BitVec 12) (keep : List Nat → Bool) : State :=
  let s := tallyBits s 5 true (((List.range d.total).filter fun i => keep (tupleOf d.counts i)).map fun i => (d.bitAddr (tupleOf d.counts i), d.width, 0))
  (List.range d.total).foldl (fun s i =>
    let t := tupleOf d.counts i
    if keep t then storeBits s (d.bitAddr t) d.width (poisonEnc d.fmt a) else s) s

/-- Poison the output extent of a command, with its on-the-fly scales. -/
def poisonOut (s : State) (rx : List Byte) (a : BitVec 12) : State :=
  let op := rOpc rx
  let rows := rowWritten s.mem rx
  let outs := ((recDescs rx).filter fun d => d.2 && !d.1.rem).map Prod.fst
  let s := outs.foldl (fun s d => poisonDesc s d a rows) s
  let sc (s : State) (b : Bsd) (d : Desc) : State :=
    if b.blk = 0 then s else (List.range d.total).foldl (fun s i =>
      let t := tupleOf d.counts i
      let bi := linearOf ((d.counts).drop 2) (t.drop 2)
      let at_ := b.addrOf 2 (d.count 1) (d.count 0) bi (t.getD 1 0) (t.getD 0 0)
      if rows t then store (if t.getD 0 0 % b.size (d.count 0) = 0 then tally s 5 true at_ 1 else s) at_ [BitVec.ofNat 8 (nanScale b.sfmt)] else s) s
  if famOf op = some 1 && op ≠ 0x14 then sc s (parseBsd rx 0x140) (parseDesc rx 0xC0)
  else if op = 0x30 && bit (leNat (slice rx 0x1DC 4)) 2 then sc s (parseBsd rx 0x200) (parseDesc rx 0x180)
  else if op = 0x31 && rSub rx = 6 then sc s (parseBsd rx 0x100) (parseDesc rx 0xC0)
  else s

/-- The anchor of a command's plan, or the given one. -/
def planAnchor (e : Entry) : BitVec 12 :=
  match e.plan with | some p => BitVec.ofInt 12 p.anchor | none => BitVec.ofNat 12 (bits (rNctl e.bytes) 8 12)

/-! ### The trap scan (R129, R130) -/

/-- The products of a command in lexicographic order of (b, m, n, k). -/
def Env.coords (v : Env) : List (Nat × Nat × Nat × Nat) :=
  let (bc, rows, cols, k) := v.shape
  let ms := (List.range rows).filter fun m => v.opc ≠ 0x11 || v.groups.any fun g => g.m0 ≤ m && m < g.m0 + g.cnt
  (List.range bc).flatMap fun b => ms.flatMap fun m => (List.range cols).flatMap fun n => (List.range k).map fun j => (b, m, n, j)

/-- The placed product at some coordinates. -/
def Env.placedAt (v : Env) (c : Nat × Nat × Nat × Nat) : Placed :=
  let (b, m, n, k) := c
  if v.opc = 0x13 then
    let t := v.redTuple (v.outTuple b m n) k
    if v.a.fmt = 0x20 then ⟨LWord.zero v.anchor, v.inputTrap (LWord.ofBits (readEl v.m v.a t))⟩
    else v.place b m n k (scaled (elVal v.a.fmt (readEl v.m v.a t)) v.sa.sfmt (v.redScale t))
  else v.place b m n k (v.product (v.factors b m n k))

/-- The factors of a product as the numeric record names them. A REDUCE has no second operand: its fields of B are 0 (log entry 110). -/
def Env.hitAt (v : Env) (c : Nat × Nat × Nat × Nat) (cause : Nat) : TrapHit :=
  let (b, m, n, k) := c
  if v.opc = 0x13 then
    let t := v.redTuple (v.outTuple b m n) k
    ⟨b, m, n, k, cause, readEl v.m v.a t, (v.redScale t).getD 0, 0, 0⟩
  else
    let f := v.factors b m n k
    ⟨b, m, n, k, cause, f.ea, f.sa.getD 0, f.eb, f.sb.getD 0⟩

/-- The numeric record (R130); an element wider than 16 bits shows its low 16 (log entry 110). -/
def Env.record (v : Env) (st : Nat) (h : TrapHit) (count : Nat) : List Byte :=
  natLe 8 ((0x0300 + h.cause) + st <<< 16 + rTag v.rx <<< 32) ++ natLe 8 (rSeq v.rx).toNat ++ natLe 4 h.b ++ natLe 4 h.m ++ natLe 4 h.n
    ++ natLe 4 h.k ++ natLe 2 h.ea ++ natLe 1 h.sa ++ natLe 1 0 ++ natLe 2 h.eb ++ natLe 1 h.sb ++ natLe 1 0
    ++ natLe 2 v.anchor.toNat ++ natLe 1 v.a.fmt ++ natLe 1 (if v.opc = 0x13 then 0 else v.b.fmt) ++ natLe 4 (bits v.nctl 0 8)
    ++ natLe 8 (sat 0xFFFFFFFF count) ++ natLe 8 0

/-- A trapped product comes before another by its coordinates (R129). -/
def TrapHit.le (x y : TrapHit) : Bool :=
  if x.b ≠ y.b then decide (x.b < y.b) else if x.m ≠ y.m then decide (x.m < y.m) else if x.n ≠ y.n then decide (x.n < y.n) else decide (x.k ≤ y.k)

/-- The trapped products of the jobs of a RUN_PROGRAM, each run again (log entry 37). -/
def progHits (s : State) (st : Nat) (e : Entry) : List TrapHit :=
  match e.plan with
  | none => []
  | some p => match imageOf s p.pid p.gen with
    | none => []
    | some img =>
      let ph := p.phases.headD ⟨0, 0, 0⟩
      ((List.range ph.jobs).flatMap fun i => (runProg progFuel (jobCtx s st e p img (ph.first + i))
        (stagedMem s st e.seq (some (jobPan e p (ph.first + i)))) (freshTile {}) []).1.hits).mergeSort TrapHit.le

/-- Every trapped product of a command, in lexicographic order (R129 step 3). -/
def trapHits (s : State) (st : Nat) (e : Entry) : List TrapHit :=
  let v := recEnv (stagedMem s st e.seq none) e.rx (planAnchor e)
  if v.opc = 0x15 then progHits s st e
  else v.coords.filterMap fun c => let p := v.placedAt c; if p.trap = 0 then none else some (v.hitAt c p.trap)

/-- Tile jobs of a command in flight: running or reserved in a tile, or returned by one to the counter (R129, R263, R264). -/
def inFlight (s : State) (st : Nat) (q : W64) : Bool :=
  ((s.til.srv ++ s.til.trn).any fun b => b.st = st && b.seq = q && b.back ≠ []) || s.til.tiles.any fun t => (match t.2.job with | some j => !j.ballast && j.st = st && j.seq = q | none => false)
    || (match t.2.reserve with | some j => !j.ballast && j.st = st && j.seq = q | none => false)

/-- Steps 3 to 7 of R129, for a command that a job stopped with a cause. A scan that finds no trapped product, as where an input has changed
since, completes the command with that cause and writes no record (log entry 110). -/
def scanTrap (s : State) (st : Nat) (e : Entry) (cause : Nat) : State :=
  let v := recEnv (stagedMem s st e.seq none) e.rx (planAnchor e)
  let hits := trapHits s st e
  let (s, cause) := match hits.head? with
    | none => (s, cause)
    | some h =>
      (if rNrec e.bytes = 0 then s else storeCtl s (rNrec e.bytes) (v.record st h (hits.filter (·.cause = h.cause)).length), h.cause)
  modCmd (poisonOut s e.rx v.anchor) st e.seq fun e => e.finish (BitVec.ofNat 16 (0x0300 + cause))

/-- A command's staged chunk is dropped with its slot (R322, R338). -/
def dropChunk (s : State) (st : Nat) (q : W64) : State :=
  match (cmdOf s st q).bind (·.chunk) with
  | none => s
  | some ch => modCmd { s with hbm := { s.hbm with units := tmod s.hbm.units ch.unit {} fun u => { u with staged := false } } } st q fun e => { e with chunk := none }

/-- Steps 3 and 4 of R296, or R297. -/
def failBad (s : State) (st : Nat) (e : Entry) (f : Status) (a : Nat) : State :=
  let s := poisonOut (dropChunk (freeBook s e.rx) st e.seq) e.rx (planAnchor e)
  let s := if f = 0x0502 then noteUe s (a / 32) 11 (some (st, rTag e.bytes, 0, e.seq)) else s
  modCmd s st e.seq fun e => { e.finish f with aux := BitVec.ofNat 32 (a >>> 12) }

end Sys2Proof.Machine
end

