-- ==== Sys2Proof/Machine/Move.lean ====
section
/-! DEFINITION. Data movement, synchronisation and program loads: COPY, GATHER, SCATTER (R202, R203), SIGNAL, WAIT and FENCE
(R225 to R229), LOAD_PROGRAM (R166, R170, R204, R608). -/

namespace Sys2Proof.Machine

/-! ### Data movement -/

/-- Convert one element of a move (R202): bit for bit where the formats are equal; a signalling NaN raises invalid (R91); `tup` gives its
dither coordinates. -/
def moveEl (rx : List Byte) (src dst : Nat) (ct tup : List Nat) (x : Nat) : Nat × Rep :=
  if src = dst then (x, {})
  else match fmtOf dst with
    | none => (0, {})
    | some f =>
      let cvt := rCvt rx
      let bi := linearOf (ct.drop 2) (tup.drop 2)
      let u := if cvt % 8 = 2 then dither (rSeed rx) (rTid rx) (nlOf rx) bi (tup.getD 1 0) (tup.getD 0 0) 0xFFFFFFFF else 0
      let r := convert f (cvt % 8) (bit cvt 3) u (elVal src x)
      (r.enc, (repTo f r).join (repBit 6 (match fmtOf src with | some g => isSnan g x | none => false)))

/-- What a move writes: (bit address, width, value) at the destination, its report, and the indices out of range. `sm` holds the
source elements. -/
def moveWrites (s : State) (sm : Mem) (rx : List Byte) : List (Nat × Nat × Nat) × Rep × Nat :=
  let op := rOpc rx
  let a := parseDesc rx 0x40
  let o := parseDesc rx (if op = 1 then 0x80 else 0xC0)
  let ix := if op = 1 then [] else indexList s.mem rx
  let rows := if op = 2 then a.count 1 else o.count 1
  let walk := if op = 2 then o else a
  let els := (List.range walk.total).filterMap fun i =>
    let t := tupleOf walk.counts i
    let r := t.getD 1 0
    if op = 1 then
      let (x, rp) := moveEl rx a.fmt o.fmt o.counts t (readEl sm a t)
      some ((o.bitAddr t, o.width, x), rp)
    else if op = 2 then
      let g := nth ix r
      if rows ≤ g then some ((o.bitAddr t, o.width, 0), {})
      else
        let (x, rp) := moveEl rx a.fmt o.fmt o.counts t (readEl sm a (t.set 1 g))
        some ((o.bitAddr t, o.width, x), rp)
    else
      let g := nth ix r
      if rows ≤ g || (ix.drop (r + 1)).contains g then none
      else
        let (x, rp) := moveEl rx a.fmt o.fmt o.counts (t.set 1 g) (readEl sm a t)
        some ((o.bitAddr (t.set 1 g), o.width, x), rp)
  (els.map Prod.fst, (els.map Prod.snd).foldl Rep.join {}, (ix.filter (rows ≤ ·)).length)

/-- The elements that a local move reads: a GATHER's rows are those that its list names. -/
def moveReads (m : Mem) (rx : List Byte) : List (Nat × Nat × Nat) :=
  let a := parseDesc rx 0x40
  let o := parseDesc rx 0xC0
  if rOpc rx ≠ 2 then (List.range a.total).map fun i => (a.bitAddr (tupleOf a.counts i), a.width, 0)
  else
    let ix := indexList m rx
    (List.range o.total).filterMap fun i =>
      let t := tupleOf o.counts i
      let g := nth ix (t.getD 1 0)
      if a.count 1 ≤ g then none else some (a.bitAddr (t.set 1 g), a.width, 0)

/-- Join consecutive writes of contiguous bits into runs of at most 8 KiB: first bit address, bits, value. -/
def bitRuns (l : List (Nat × Nat × Nat)) : List (Nat × Nat × Nat) :=
  l.foldl (fun acc w =>
    match acc.getLast? with
    | some (a, n, v) => if a + n = w.1 ∧ n + w.2.1 ≤ 65536 then acc.dropLast ++ [(a, n + w.2.1, v + w.2.2 <<< n)] else acc ++ [w]
    | none => [w]) []

/-- The chunks of 8 KiB that hold elements of a remote descriptor. -/
def remoteChunks (d : Desc) : List (Nat × Nat) :=
  match d.bytes with
  | none => []
  | some (a, n) => ((List.range (cdiv n 8192)).map fun i => (a + 8192 * i, min 8192 (n - 8192 * i))).filter fun c =>
      { d with rem := false }.meets c.1 c.2

/-- Send a WRITE of some bits to a node for a command (R354, R357). -/
def sendBits (s : State) (st : Nat) (q : W64) (node : NodeId) (w : Nat × Nat × Nat) : State :=
  let fb := w.1 % 8
  let n := cdiv (fb + w.2.1) 8
  let e := (peerOf s node.toNat).next
  let s := sendTxn s 1 1 node (BitVec.ofNat 64 (w.1 / 8)) (BitVec.ofNat 64 (fb + (w.2.1 - 1) <<< 3)) (natLe n (w.2.2 <<< fb)) (.cmd st q)
  modCmd s st q fun x => { x with waits := x.waits ++ [(node, e)] }

/-- The move has its source: write the destination (R202, R203). -/
def finishMove (s : State) (st : Nat) (q : W64) (e : Entry) (sm : Mem) : State :=
  let rx := e.rx
  let o := parseDesc rx (if rOpc rx = 1 then 0x80 else 0xC0)
  let (wr, rp, miss) := moveWrites s sm rx
  let s := modCmd s st q fun e => { e with ran := true, nrep := rp.word, aux := BitVec.ofNat 32 (sat 0xFFFFFFFF miss), log := [] }
  if o.rem then (bitRuns wr).foldl (fun s w => sendBits s st q (BitVec.ofNat 16 o.node) w) s else storeAll (tallyBits s 2 true wr) wr

/-- A data movement command runs: a remote source is read first, by READ transactions. -/
def runMove (s : State) (st : Nat) (q : W64) (e : Entry) : State :=
  let rx := e.rx
  let a := parseDesc rx 0x40
  if e.stop.isSome || e.ran || e.waits ≠ [] then s
  else
    let (s, bad) := meetCmd s rx
    match bad with
    | some x => modCmd s st q fun e => { e with stop := some (.uncorr x) }
    | none =>
      let ch := if a.rem then remoteChunks a else []
      let s := if a.rem then s else tallyBits s 2 false (moveReads s.mem rx)
      if ch = [] then finishMove s st q e s.mem
      else ch.foldl (fun s c =>
        let n := (peerOf s a.node).next
        let node := BitVec.ofNat 16 a.node
        let s := sendTxn s 2 1 node (BitVec.ofNat 64 c.1) (BitVec.ofNat 64 (c.2 - 1)) [] (.cmd st q)
        modCmd s st q fun x => { x with waits := x.waits ++ [(node, n)], log := x.log ++ [(n.toNat, natLe 8 c.1)] }) s

/-! ### Sync objects (R225 to R228) -/

/-- The value of a sync object. -/
def syncOf (s : State) (i : Nat) : W64 := tget s.cmd.sync i 0

/-- Update a sync object: ADD modulo 2^64, or the unsigned maximum. -/
def syncUpdate (s : State) (i : Nat) (isMax : Bool) (v : W64) : State :=
  let f (x : W64) : W64 := if isMax then (if x < v then v else x) else x + v
  { s with cmd := { s.cmd with sync := tmod s.cmd.sync (i % 16384) 0 f } }

/-- A SIGNAL runs (R226): locally at once, remotely by a transaction that its completion waits for. -/
def runSignal (s : State) (st : Nat) (q : W64) (e : Entry) : State :=
  let w := wordAt e.bytes 0x40
  let v := BitVec.ofNat 64 (wordAt e.bytes 0x48)
  if e.ran then s
  else
    let s := modCmd s st q fun e => { e with ran := true }
    if bit w 16 then
      let node := BitVec.ofNat 16 (bits w 32 16)
      let n := (peerOf s node.toNat).next
      let s := sendTxn s 7 1 node (BitVec.ofNat 64 (bits w 0 16)) v [] (.cmd st q)
      modCmd s st q fun e => { e with waits := e.waits ++ [(node, n)] }
    else syncUpdate s (bits w 0 14) (bit w 14) v

/-- A WAIT runs (R227): it ends once its object has reached the value. -/
def runWait (s : State) (st : Nat) (q : W64) (e : Entry) : State :=
  if (syncOf s (fieldAt e.bytes 0x40 0 14)).toNat < wordAt e.bytes 0x48 then s else modCmd s st q fun e => { e with ran := true }

/-- A FENCE runs (R229): every earlier command is complete, and with sub[0] every earlier entry is written. -/
def runFence (s : State) (st : Nat) (q : W64) (e : Entry) : State :=
  let x := strmOf s st
  let before := x.journal.takeWhile fun p => p.refused || p.seq ≠ q
  if before.all (fun p => p.st = .completed || (!bit (rSub e.bytes) 0 && (p.st = .done || p.refused)))
  then modCmd s st q fun e => { e with ran := true } else s

/-! ### Program loads (R166 to R170, R204, R608) -/

/-- nb and nd of an image. -/
def imgDims (img : List Byte) : Nat × Nat := (fieldAt img 0 0 11, fieldAt img 0 16 9)

/-- The image checks of R608, `units` being the length in the record. -/
def imgOk (img : List Byte) (units : Nat) : Bool :=
  let (nb, nd) := imgDims img
  bits (wordAt img 0) 11 5 = 0 && bits (wordAt img 0) 25 39 = 0 && allZero img 8 56
    && 1 ≤ nb && nb ≤ 1024 && nd ≤ 256 && cdiv nb 2 + nd ≤ 512 && units = 1 + cdiv nb 2 + nd
    && (List.range nd).all fun j =>
      let d := parseDesc img (64 * (1 + cdiv nb 2 + j))
      !d.rsv && isFmt d.fmt && d.valid false

/-- A bank counts as active: active, loading, or with a switch to it pending (R166). -/
def bankBusy (t : Tile) (b : Bool) : Bool :=
  (t.actB == b) || (if b then t.imB.loading else t.imA.loading) || (t.pendSw && t.actB != b)

/-- Begin a load of an image into a bank. -/
def loadBank (s : State) (t : Nat) (b : Bool) (pid : BitVec 16) (gen : BitVec 32) (img : List Byte) : State :=
  let k : Bank := { pid := pid, gen := gen, valid := false, loading := true, img := img }
  modTile s t fun t => if b then { t with imB := k } else { t with imA := k }

/-- LOAD_PROGRAM runs (R166, R170, R204): the image is checked, the generation taken and recorded, and the inactive banks of the
tiles in service are loaded; a direct load writes one bank. A bad image is told before a busy bank (log entry 130). -/
def runLoad (s : State) (st : Nat) (q : W64) (e : Entry) (direct : Bool) : State :=
  if e.ran || e.stop.isSome then s
  else
    let (s, bad) := meetCmd (tally s 5 false (wordAt e.bytes 0x40 % 2 ^ 44) (64 * fieldAt e.bytes 0x48 0 10)) e.rx
    match bad with
    | some x => modCmd s st q fun e => { e with stop := some (.uncorr x) }
    | none =>
      let pid := rProg e.bytes
      let units := fieldAt e.bytes 0x48 0 10
      let img := rd s.mem (wordAt e.bytes 0x40 % 2 ^ 44) (64 * units)
      let t := fieldAt e.bytes 0x48 10 8
      let b := bit (wordAt e.bytes 0x48) 18
      if !imgOk img units then modCmd s st q fun e => e.finish 0x0408
      else if direct && bankBusy (tileOf s t) b then modCmd s st q fun e => e.finish 0x0405
      else
        let gen := match e.gen with | some g => g | none => tget s.til.gens pid 0 + 1
        let s := if e.gen.isSome then s else { s with til := { s.til with gens := tput s.til.gens pid gen 0 } }
        let s := { s with til := { s.til with progs := s.til.progs.filter (fun p => !(p.pid = pid && p.gen = gen)) ++ [⟨pid, gen, img, false⟩] } }
        let s := if direct then loadBank s t b (BitVec.ofNat 16 pid) gen img
          else (allTiles.filter fun t => tileUp s t && !bankBusy (tileOf s t) (!(tileOf s t).actB)).foldl
            (fun s t => loadBank s t (!(tileOf s t).actB) (BitVec.ofNat 16 pid) gen img) s
        modCmd s st q fun e => { e with ran := true, gen := some gen, aux := gen }

end Sys2Proof.Machine
end

