-- ==== Sys2Proof/Machine/Training.lean ====
section
/-! DEFINITION. Training support: OPT_UPDATE (R307 to R325), step records and the loss scale (R326 to R329), tensor scales
(R330 to R332), SCALE_UPDATE (R333 to R337), DIGEST on one device (R435 to R438). -/

namespace Sys2Proof.Machine

/-! ### Update units (R307, R308, R338) -/

/-- The update units in service: a unit leaves with its stack (R50). -/
def unitsUp (s : State) : List Nat := (List.range 8).filter fun k => (tget s.hbm.units k {}).up

/-- Count elements as processed by a unit, with the clocks that it spends on them: 64 elements a clock at best, and a free amount more where its
traffic waits (R307, R338, log entry 46). -/
def addElems (s : State) (k n : Nat) : State :=
  if n = 0 then s
  else
    let f := cdiv n 64 + (Config.freeValue s.free).toNat
    { s with free := s.free + 1, hbm := { s.hbm with units := tmod s.hbm.units k {} fun u =>
      { u with elems := (u.elems + n) % 2 ^ 64, fclk := (u.fclk + f) % 2 ^ 64 } } }

/-- The unit that processes element i of a descriptor (R308): that of the stack that holds it, or for the Serai the units in service in turn (log
entry 34). -/
def unitOf (s : State) (d : Desc) (i : Nat) : Nat :=
  let a := d.bitAddr (tupleOf d.counts i) / 8
  let up := unitsUp s
  if inHbm a 1 then (hbmMap a).1 else if up = [] then 0 else nth up (i % up.length)

/-- The elements of a descriptor that unit k processes, in order. -/
def shareOf (s : State) (d : Desc) (k : Nat) : List Nat := (List.range d.total).filter fun i => unitOf s d i = k

/-- Operand elements of unit k count where they lie (R304, R306, R308): in its own stack, or in the Serai in class 2. What comes from another
stack passes through the Serai at a place that the spec does not give. -/
def unitTraffic (s : State) (k : Nat) (wr : Bool) (l : List (Nat × Nat × Nat)) : State :=
  let far := ((l.filter fun x => inHbm (x.1 / 8) 1 && (hbmMap (x.1 / 8)).1 ≠ k).map (·.2.1)).sum / 8
  addSome (tallyBits s 2 wr l) 2 far

/-- A unit holds its grant (R490): it processes only then. -/
def unitGrant (s : State) (k : Nat) : Bool := s.pwr.held.any (·.1 = .unit k)

/-- Every unit that processes an element of a descriptor holds its grant. -/
def unitsReady (s : State) (d : Desc) : Bool := (List.range 8).all fun k => shareOf s d k = [] || unitGrant s k

/-- The elements of a descriptor at some linear indices as accesses. -/
def elsAt (d : Desc) (l : List Nat) : List (Nat × Nat × Nat) := l.map fun i => (d.bitAddr (tupleOf d.counts i), d.width, 0)

/-- The accesses of the units to operands beside the elements of a source, each by the unit that processes the element (R308). -/
def unitShare (s : State) (d : Desc) (wr : Bool) (ds : List Desc) : State :=
  (List.range 8).foldl (fun t k => let l := shareOf s d k; unitTraffic t k wr (ds.flatMap fun x => elsAt x l)) s

/-- Count the elements of a source that the units read (R308, R338). -/
def countElems (s : State) (d : Desc) : State :=
  (List.range 8).foldl (fun t k => let l := shareOf s d k; addElems (unitTraffic t k false (elsAt d l)) k l.length) s

/-! ### Step records (R326, R327) -/

/-- The step record at an address. -/
structure StepRec where
  step : Nat := 0
  attempts : Nat := 0
  skipped : Nat := 0
  nonfinite : Nat := 0
  lsExp : Int := 0
  lsMin : Int := 0
  lsMax : Int := 0
  clean : Nat := 0
  interval : Nat := 0
  d : Nat := 0
  dPlan : Nat := 0
  agreed : Bool := false
  lastSkip : Bool := false
  beta1 : Nat := 0
  beta2 : Nat := 0
  p1 : Nat := 0
  p2 : Nat := 0
  c1 : Nat := 0
  c2 : Nat := 0
  ls : Nat := 0
  lsInv : Nat := 0
deriving DecidableEq, Repr

/-- Read a step record from its 128 bytes. -/
def parseStep (l : List Byte) : StepRec :=
  { step := wordAt l 0, attempts := wordAt l 8, skipped := wordAt l 0x10, nonfinite := wordAt l 0x18,
    lsExp := sgn 16 (fieldAt l 0x20 0 16), lsMin := sgn 8 (fieldAt l 0x20 16 8), lsMax := sgn 8 (fieldAt l 0x20 24 8),
    clean := fieldAt l 0x20 32 32, interval := fieldAt l 0x28 0 32, d := fieldAt l 0x28 32 32, dPlan := fieldAt l 0x30 0 32,
    agreed := bit (wordAt l 0x30) 32, lastSkip := bit (wordAt l 0x30) 33, beta1 := fieldAt l 0x40 0 32, beta2 := fieldAt l 0x40 32 32,
    p1 := fieldAt l 0x48 0 32, p2 := fieldAt l 0x48 32 32, c1 := fieldAt l 0x50 0 32, c2 := fieldAt l 0x50 32 32,
    ls := fieldAt l 0x38 0 32, lsInv := fieldAt l 0x38 32 32 }

/-- The 128 bytes of a step record. -/
def stepBytes (r : StepRec) : List Byte :=
  natLe 8 r.step ++ natLe 8 r.attempts ++ natLe 8 r.skipped ++ natLe 8 r.nonfinite
    ++ natLe 2 (unsgn 16 r.lsExp) ++ natLe 1 (unsgn 8 r.lsMin) ++ natLe 1 (unsgn 8 r.lsMax) ++ natLe 4 r.clean
    ++ natLe 4 r.interval ++ natLe 4 r.d ++ natLe 4 r.dPlan ++ natLe 4 (b2n r.agreed + 2 * b2n r.lastSkip)
    ++ natLe 4 r.ls ++ natLe 4 r.lsInv ++ natLe 4 r.beta1 ++ natLe 4 r.beta2 ++ natLe 4 r.p1 ++ natLe 4 r.p2 ++ natLe 4 r.c1 ++ natLe 4 r.c2
    ++ natLe 40 0

/-- 2^e in FP32. -/
def pow2F (e : Int) : Nat := (convert fp32 0 false 0 (.fin false 1 1 e)).enc

/-- ls and ls_inv follow from ls_exp. -/
def StepRec.withLs (r : StepRec) : StepRec := { r with ls := pow2F r.lsExp, lsInv := pow2F (-r.lsExp) }

/-- c = 1 / (1 − p), 1.0 where beta is 0 (R327). -/
def biasC (beta p : Nat) : Nat :=
  if beta % 2 ^ 31 = 0 then 0x3F800000 else (f32 5 0x3F800000 (f32 2 0x3F800000 p 0).1 0).1

/-- The divisor that a write of d at an address leaves (R478): a job that resumed with fewer members lowers its step record's. -/
def dropD (s : State) (a dPlan : Nat) : Nat :=
  match s.cfg.conf.job with
  | some j =>
    if s.job.drop && j.stepAddr = a then
      let p := (tget s.lnk.groups j.jobGroup {}).members.length
      dPlan - (j.p0 - p) * j.mb
    else dPlan
  | none => dPlan

/-- COMMIT (R327). -/
def StepRec.commit (r : StepRec) (d : Nat) : StepRec :=
  let r := { r with attempts := (r.attempts + 1) % 2 ^ 64 }
  let r :=
    if r.d = 0 then { r with skipped := (r.skipped + 1) % 2 ^ 64, lastSkip := true }
    else if r.nonfinite ≠ 0 then
      { r with lsExp := max r.lsMin (r.lsExp - 1), clean := 0, skipped := (r.skipped + 1) % 2 ^ 64, lastSkip := true }
    else
      let r := { r with step := (r.step + 1) % 2 ^ 64, clean := (r.clean + 1) % 2 ^ 32, lastSkip := false }
      let r := if r.interval ≤ r.clean then { r with lsExp := min r.lsMax (r.lsExp + 1), clean := 0 } else r
      let p1 := (f32 3 r.p1 r.beta1 0).1
      let p2 := (f32 3 r.p2 r.beta2 0).1
      { r with p1 := p1, p2 := p2, c1 := biasC r.beta1 p1, c2 := biasC r.beta2 p2 }
  { r with nonfinite := 0, agreed := false, d := d }.withLs

/-- INIT_STEP (R334). -/
def initStep (l : List Byte) (d : Nat → Nat) : StepRec :=
  let b1 := fieldAt l 0x58 0 32
  let b2 := fieldAt l 0x58 32 32
  let iv := fieldAt l 0x48 32 32
  let r : StepRec :=
    { lsExp := sgn 16 (fieldAt l 0x48 0 16), lsMin := sgn 8 (fieldAt l 0x48 16 8), lsMax := sgn 8 (fieldAt l 0x48 24 8),
      interval := if iv = 0 then 2000 else iv, dPlan := fieldAt l 0x50 0 32, d := d (fieldAt l 0x50 0 32), beta1 := b1, beta2 := b2,
      p1 := b1, p2 := b2, c1 := biasC b1 b1, c2 := biasC b2 b2 }
  r.withLs

/-- Write bytes that the command has logged in its journal entry first (R329). -/
def loggedWrite (s : State) (st : Nat) (q : W64) (a : Nat) (d : List Byte) : State :=
  store (tally (modCmd s st q fun e => { e with log := e.log ++ [(a, d)] }) 2 true a d.length) a d

/-- A step record or a tensor-scale entry as it stood when the command started (R309, R315). -/
def recAt (s : State) (e : Entry) (a : Nat) : List Byte :=
  match e.recs.find? (·.1 = a) with | some x => x.2 | none => rd s.mem a 128

/-! ### Tensor scales (R330 to R332) -/

/-- A tensor-scale entry. -/
structure TScale where
  count : Nat := 0
  head : Nat := 0
  h : Nat := 0
  eInit : Int := 0
  eLast : Int := 0
  uses : Nat := 0
  corrections : Nat := 0
  hist : List Nat := List.replicate 16 0
deriving DecidableEq, Repr

/-- Read a tensor-scale entry. -/
def parseScale (l : List Byte) : TScale :=
  let w := wordAt l 0
  { count := bits w 0 5, head := bits w 8 4, h := bits w 12 4, eInit := sgn 8 (bits w 16 8), eLast := sgn 8 (bits w 24 8),
    uses := bits w 32 32, corrections := fieldAt l 8 0 32, hist := (List.range 16).map fun i => leNat (slice l (0x10 + 4 * i) 4) }

/-- The 128 bytes of a tensor-scale entry: scale and scale_inv follow from e_last. -/
def scaleBytes (t : TScale) : List Byte :=
  natLe 8 (t.count + t.head <<< 8 + t.h <<< 12 + (unsgn 8 t.eInit) <<< 16 + (unsgn 8 t.eLast) <<< 24 + (t.uses % 2 ^ 32) <<< 32)
    ++ natLe 8 (t.corrections % 2 ^ 32) ++ t.hist.flatMap (natLe 4 ·) ++ natLe 4 (pow2F t.eLast) ++ natLe 4 (pow2F (-t.eLast)) ++ natLe 40 0

/-- The least e of −127 to 127 with a × 2^h ≤ M × 2^e, or 127 (R331). -/
def leastE (f : Fmt) (h a : Nat) : Int :=
  let x := Val.mul (decodeVal fp32 a) (.fin false 1 1 h)
  let e := (List.range 255).find? fun (i : Nat) => x.le (.fin false f.maxQ 1 (f.maxG + (i : Int) - 127))
  match e with | some i => (i : Int) - 127 | none => 127

/-- The exponent of a use (R331). -/
def TScale.pick (t : TScale) (f : Fmt) : Int :=
  let a := (t.hist.take t.count).foldl max 0
  if a = 0 then t.eInit else leastE f t.h a

/-- A use of an entry over some FP32 values (R332): the exponent in the end, the elements, the report, whether it was corrected, the
non-finite count and the entry after it. `again` gives the values that a correction pass reads back. -/
def TScale.use (t : TScale) (f : Fmt) (xs again : List Nat) : Int × List Nat × Rep × Bool × Nat × TScale :=
  let fin (x : Nat) : Bool := x % 2 ^ 31 < 0x7F800000
  let e0 := t.pick f
  let amax := (xs.filter fin).foldl (fun m x => max m (x % 2 ^ 31)) 0
  let bad := (xs.filter (!fin ·)).length
  let corr := !((decodeVal fp32 amax).le (.fin false f.maxQ 1 (f.maxG + e0)))
  let e := if corr then leastE f t.h amax else e0
  let rs := (if corr then again else xs).map fun x => convert f 0 true 0 (Val.mul (decodeVal fp32 x) (.fin false 1 1 (-e)))
  let t' := { t with corrections := (t.corrections + b2n corr) % 2 ^ 32, hist := t.hist.set t.head amax, head := (t.head + 1) % 16,
                     count := min 16 (t.count + 1), eLast := e, uses := (t.uses + 1) % 2 ^ 32 }
  (e, rs.map (·.enc), (rs.map repConv).foldl Rep.join {}, corr, bad, t')

/-- Fill a destination's scale array with e + 127 (R332 step 4), as traffic of the units (R304, R306). -/
def fillScales (s : State) (rx : List Byte) (bo : Nat) (q : Desc) (e : Int) : State :=
  let b := parseBsd rx bo
  let (n, rows) := b.shape 2 (q.count 1) (q.count 0)
  let bc := q.prod [2, 3, 4, 5]
  (List.range (bc * rows)).foldl (fun s i =>
    let a := b.base + (i / max 1 rows) * b.bstr + (i % max 1 rows) * b.rstr
    store (tally s 2 true a n) a (List.replicate n (BitVec.ofNat 8 (e + 127).toNat))) s

/-- Count a correction pass (R338). -/
def countCorr (s : State) (c : Bool) : State :=
  if c then { s with hbm := { s.hbm with corr := sat 0xFFFFFFFF (s.hbm.corr + 1) } } else s

/-! ### OPT_UPDATE (R315 to R325) -/

/-- The parameters of an OPT_UPDATE with what its step record gives (R314, R315). -/
structure OptPar where
  adam : Bool
  lr : Nat
  b1 : Nat
  b2 : Nat
  eps : Nat
  wd : Nat
  c1 : Nat
  c2 : Nat
  mode : Nat
  lsInv : Nat
  d : Nat
deriving DecidableEq, Repr

/-- Read the parameters; `sr` is the step record, none where srec is 0. -/
def optPar (rx : List Byte) (sr : Option StepRec) : OptPar :=
  let p (off : Nat) : Nat := leNat (slice rx (0x1C0 + off) 4)
  let bc := bit (p 0x1C) 3
  let r := sr.getD { lsInv := 0x3F800000, d := 1 }
  { adam := rSub rx = 2, lr := p 0, b1 := p 4, b2 := p 8, eps := p 0xC, wd := p 0x10, c1 := if bc then r.c1 else p 0x14,
    c2 := if bc then r.c2 else p 0x18, mode := bits (p 0x1C) 0 2, lsInv := r.lsInv, d := r.d }

/-- Prepare a gradient (R316). -/
def optGrad (o : OptPar) (fmt x : Nat) : Nat × Rep :=
  let (g0, r0) :=
    if fmt = 0x20 then let r := convert fp32 0 false 0 (LWord.ofBits x).value; (r.enc, repTo fp32 r) else (widen32 fmt x, {})
  let (g1, r1) := f32 3 g0 o.lsInv 0
  let (g, r2) := f32 5 g1 (convert fp32 0 false 0 (.fin false o.d 1 0)).enc 0
  (g, (r0.join r1).join r2)

/-- The algorithms of R317: x1, m1, v1 and the flags. -/
def optAlgo (o : OptPar) (x m v g : Nat) : Nat × Nat × Nat × Rep :=
  let nlr := o.lr ^^^ 0x80000000
  if o.adam then
    let (dm, r1) := f32 2 m g 0
    let (m1, r2) := f32 4 o.b1 dm g
    let (q, r3) := f32 3 g g 0
    let (dv, r4) := f32 2 v q 0
    let (v1, r5) := f32 4 o.b2 dv q
    let (mh, r6) := f32 3 m1 o.c1 0
    let (vh, r7) := f32 3 v1 o.c2 0
    let (sq, r8) := f32 6 vh 0 0
    let (den, r9) := f32 1 sq o.eps 0
    let (u, r10) := f32 5 mh den 0
    let (t, r11) := f32 4 o.wd x u
    let (x1, r12) := f32 4 nlr t x
    (x1, m1, v1, [r1, r2, r3, r4, r5, r6, r7, r8, r9, r10, r11, r12].foldl Rep.join {})
  else
    let (m1, r1) := f32 4 o.b1 m g
    let (t, r2) := f32 4 o.wd x m1
    let (x1, r3) := f32 4 nlr t x
    (x1, m1, 0, (r1.join r2).join r3)

/-- The exponent of the spacing u(w) of a 16-bit encoding (R319). -/
def spacing (fmt w : Nat) : Int :=
  if fmt = 8 then (max (bits w 7 8) 1 : Nat) - 134 else (max (bits w 10 5) 1 : Nat) - 25

/-- The working value that W and X hold, by mode (R318 to R320). -/
def optWork (mode fmt w x : Nat) : Nat :=
  match mode with
  | 1 =>
    match fmtOf fmt with
    | none => 0
    | some f =>
      let v := decodeVal f w
      if !v.isFin then widen32 fmt w
      else
        let r := sgn 8 x
        (convert fp32 0 false 0 (Val.add 0 v (.fin (r < 0) r.natAbs 1 (spacing fmt w - 8)))).enc
  | 2 => w <<< 16 + x
  | _ => widen32 fmt w

/-- RNE to an integer of a dyadic value. -/
def rneInt (v : Val) : Int :=
  match v with
  | .fin n a d e =>
    let (x, y) := scaleFrac a d e
    let q := if roundUp 0 n (x / y) (x % y) y 0 then x / y + 1 else x / y
    if n then -(q : Int) else q
  | _ => 0

/-- What the mode writes to W and X from x1 (R318 to R320), `u` being the weight's draw. -/
def optSplit (mode fmt : Nat) (satf : Bool) (u x1 : Nat) : Nat × Nat × Rep :=
  match fmtOf fmt with
  | none => (0, 0, {})
  | some f =>
    let v := decodeVal fp32 x1
    match mode with
    | 1 =>
      let r := convert f 0 satf 0 v
      let w := decodeVal f r.enc
      if !v.isFin || !w.isFin then (r.enc, 0, repConv r)
      else
        let z := rneInt (Val.mul (Val.add 0 v w.neg) (.fin false 1 1 (8 - spacing fmt r.enc)))
        (r.enc, unsgn 8 (max (-127) (min 127 z)), repConv r)
    | 2 => (x1 >>> 16, x1 % 65536, {})
    | _ => let r := convert f 2 satf u v; (r.enc, 0, repConv r)

/-- One element of an OPT_UPDATE: the writes, the working value x1 and what a correction pass reads back, and the report. -/
def optElem (m : Mem) (rx : List Byte) (o : OptPar) (ds : Nat → Desc) (t : List Nat) : List (Nat × Nat × Nat) × Nat × Nat × Rep :=
  let w := ds 0x40
  let bi := linearOf (w.counts.drop 2) (t.drop 2)
  let dr (k : Nat) : Nat := dither (rSeed rx) (rTid rx) (bits (rNctl rx) 0 8) bi (t.getD 1 0) (t.getD 0 0) k
  let rnd := rCvt rx % 8
  let satf := bit (rCvt rx) 3
  let useX := o.mode = 1 || o.mode = 2
  let x := optWork o.mode w.fmt (readEl m w t) (if useX then readEl m (ds 0x140) t else 0)
  let (g, rg) := optGrad o (ds 0x80).fmt (readEl m (ds 0x80) t)
  let mm := widen32 (ds 0xC0).fmt (readEl m (ds 0xC0) t)
  let vv := if o.adam then widen32 (ds 0x100).fmt (readEl m (ds 0x100) t) else 0
  let (x1, m1, v1, ra) := optAlgo o x mm vv g
  let mom (d : Desc) (k y : Nat) : Nat × Rep :=
    if d.fmt = 0xA then (y, {})
    else match fmtOf d.fmt with
      | none => (0, {})
      | some f => let r := convert f rnd satf (if rnd = 2 then dr k else 0) (decodeVal fp32 y); (r.enc, repConv r)
  let (me, rm) := mom (ds 0xC0) 0xFFFFFFFD m1
  let (ve, rv) := if o.adam then mom (ds 0x100) 0xFFFFFFFC v1 else (0, {})
  let (we, xe, rw) := optSplit o.mode w.fmt satf (dr 0xFFFFFFFE) x1
  let wr := [(w.bitAddr t, w.width, we), ((ds 0xC0).bitAddr t, (ds 0xC0).width, me)]
    ++ (if o.adam then [((ds 0x100).bitAddr t, (ds 0x100).width, ve)] else [])
    ++ (if useX then [((ds 0x140).bitAddr t, (ds 0x140).width, xe)] else [])
  (wr, x1, optWork o.mode w.fmt we xe, ((((rg.join ra).join rm).join rv).join rw))

/-- The elements of a chunk (R322): 65,536 consecutive elements of a unit's share of W. -/
def chunkEls (s : State) (rx : List Byte) (k c : Nat) : List Nat := ((shareOf s (parseDesc rx 0x40) k).drop (65536 * c)).take 65536

/-- The chunks that are not done. -/
def chunksLeft (s : State) (e : Entry) : List (Nat × Nat) :=
  ((List.range 8).flatMap fun k => (List.range (cdiv (shareOf s (parseDesc e.rx 0x40) k).length 65536)).map fun c => (k, c)).filter fun x =>
    !e.chunks.contains x

/-- The first of them whose unit holds its grant (R490). -/
def nextChunk (s : State) (e : Entry) : Option (Nat × Nat) := (chunksLeft s e).find? fun x => unitGrant s x.1

/-- The step record of an OPT_UPDATE keeps it from running (R315). -/
def optGated (s : State) (e : Entry) : Bool :=
  let sa := wordAt e.rx 0x1E0 % 2 ^ 44
  let r := parseStep (recAt s e sa)
  sa ≠ 0 && (r.nonfinite ≠ 0 || r.d = 0)

/-- Steps 1 to 3 of R322: the unit computes a chunk's new values and stages them. -/
def stageChunk (s : State) (st : Nat) (q : W64) (e : Entry) (o : OptPar) (k c : Nat) : State :=
  let rx := e.rx
  let w := parseDesc rx 0x40
  let ix := chunkEls s rx k c
  let els := ix.map fun i => (i, optElem s.mem rx o (parseDesc rx) (tupleOf w.counts i))
  let ch : Chunk :=
    { unit := k, num := c, wr := levelWrites s.mem rx (els.flatMap (·.2.1)),
      vals := els.map fun x => (x.1, BitVec.ofNat 32 x.2.2.1, BitVec.ofNat 32 x.2.2.2.1), rep := ((els.map (·.2.2.2.2)).foldl Rep.join {}).word }
  let reads := ([0x40, 0x80, 0xC0] ++ (if o.adam then [0x100] else []) ++ (if o.mode = 1 || o.mode = 2 then [0x140] else [])).flatMap fun off =>
    elsAt (parseDesc rx off) ix
  let s := unitTraffic s k false reads
  modCmd { s with hbm := { s.hbm with units := tmod s.hbm.units k {} fun u => { u with staged := true } } } st q fun e =>
    { e with chunk := some ch }

/-- The operands of an OPT_UPDATE that it writes element by element, by their offsets (R310). -/
def optOuts (rx : List Byte) : List Nat :=
  [0x40, 0xC0] ++ (if rSub rx = 2 then [0x100] else []) ++ (if bits (leNat (slice rx 0x1DC 4)) 0 2 = 1 || bits (leNat (slice rx 0x1DC 4)) 0 2 = 2 then [0x140] else [])

/-- The 64-byte lines of an access. -/
def linesOf (x : Nat × Nat × Nat) : List Nat := [x.1 / 512, (x.1 + x.2.1 - 1) / 512].eraseDups

/-- The writes that may happen once some elements are done: those to lines in which no other element waits, so that a line is seen wholly before or
wholly after the update (R323). -/
def wholeLines (rx : List Byte) (done : List Nat) (l : List (Nat × Nat × Nat)) : List (Nat × Nat × Nat) × List (Nat × Nat × Nat) :=
  let w := parseDesc rx 0x40
  let rest := (List.range w.total).filter fun i => !done.contains i
  let open_ := ((optOuts rx).flatMap fun off => elsAt (parseDesc rx off) rest).flatMap linesOf
  l.partition fun x => (linesOf x).all fun n => !open_.contains n

/-- Steps 4 and 5 of R322: a staged chunk is written from its slot and recorded as done. -/
def writeChunk (s : State) (st : Nat) (q : W64) (e : Entry) (ch : Chunk) : State :=
  let (now, late) := wholeLines e.rx (e.opt.map (·.1) ++ ch.vals.map (·.1)) (e.late ++ ch.wr)
  let s := addElems (unitTraffic (storeAll s now) ch.unit true ch.wr) ch.unit ch.vals.length
  modCmd { s with hbm := { s.hbm with units := tmod s.hbm.units ch.unit {} fun u => { u with staged := false } } } st q fun e =>
    { e with chunk := none, late := late, chunks := e.chunks ++ [(ch.unit, ch.num)], opt := e.opt ++ ch.vals, nrep := addRep e.nrep (repOf ch.rep) }

/-- The end of an OPT_UPDATE: the Q copy by R332 over the values of its chunks, with the entry as it stood at the start. -/
def finishOpt (s : State) (st : Nat) (q : W64) (e : Entry) : State :=
  let rx := e.rx
  let w := parseDesc rx 0x40
  let qd := parseDesc rx 0x180
  match (if bit (leNat (slice rx 0x1DC 4)) 2 && w.total ≠ 0 then fmtOf qd.fmt else none) with
  | none => modCmd s st q fun e => { e with ran := true, nrep := levelReport s.mem rx e.nrep }
  | some f =>
    let ta := wordAt rx 0x1E8 % 2 ^ 44
    let of (i : Nat) : BitVec 32 × BitVec 32 := match e.opt.find? (·.1 = i) with | some x => x.2 | none => (0, 0)
    let xs := (List.range w.total).map of
    let (ex, qs, rq, corr, _, ts') := (parseScale (recAt s e ta)).use f (xs.map (·.1.toNat)) (xs.map (·.2.toNat))
    let wr := levelWrites s.mem rx ((qs.zipIdx).map fun x => (qd.bitAddr (tupleOf w.counts x.2), qd.width, x.1))
    let s := storeAll (unitShare s w true (if corr then [qd, qd] else [qd])) wr
    let s := if corr then unitShare s w false ((optOuts rx).filterMap fun off => if off = 0x40 || off = 0x140 then some (parseDesc rx off) else none) else s
    let s := loggedWrite (countCorr (fillScales s rx 0x200 qd ex) corr) st q ta (scaleBytes ts')
    modCmd s st q fun e => { e with ran := true, nrep := levelReport s.mem rx (addRep e.nrep rq), aux := if corr then 2 else 0 }

/-- Run an OPT_UPDATE (R315, R322, R325): a command that the gate skips reads nothing more; else one step of its chunks at a time, a staged chunk
first, then one of a unit that holds its grant (R490), and its end once every chunk is done. -/
def runOpt (s : State) (st : Nat) (q : W64) (e : Entry) : State :=
  let rx := e.rx
  let sa := wordAt rx 0x1E0 % 2 ^ 44
  let sr := if sa = 0 then none else some (parseStep (recAt s e sa))
  if e.ran || e.stop.isSome then s
  else if optGated s e then
    let s := { s with hbm := { s.hbm with optSkip := sat 0xFFFFFFFF (s.hbm.optSkip + 1) } }
    modCmd s st q fun e => { e with ran := true, aux := 1 }
  else match e.chunk with
    | some ch => writeChunk s st q e ch
    | none =>
      let (s, bad) := meetCmd s rx
      match bad with
      | some x => modCmd s st q fun e => { e with stop := some (.uncorr x) }
      | none =>
        match nextChunk s e with
        | some (k, c) => stageChunk s st q e (optPar rx sr) k c
        | none =>
          if chunksLeft s e ≠ [] || (bit (leNat (slice rx 0x1DC 4)) 2 && !unitsReady s (parseDesc rx 0x40)) then s else finishOpt s st q e

/-- A lane of unit k fails its residue check (R413): the chunk is computed again and the fault is an event. A lane with a lasting verdict is replaced by
a spare lane while there is one, and its self-test runs (R423); a unit with none left runs on the lanes it has, and goes out of service with its last (R427, log entry 127). -/
def laneFault (s : State) (k : Nat) (lasting : Bool) : State :=
  let u := tget s.hbm.units k {}
  if !lasting then raise s 8 3 1 1 k
  else
    let s := { s with hbm := { s.hbm with units := tput s.hbm.units k { u with lanes := u.lanes - 1, up := 2 ≤ u.lanes } {} } }
    selfTest (raiseKept s 8 3 2 (if 64 < u.lanes then 10 else 0) k) 8 3 k

/-- Unit k computes a chunk of a running OPT_UPDATE that is not staged (R322). -/
def unitComputes (s : State) (e : Entry) (k : Nat) : Bool :=
  (tget s.hbm.units k {}).up && !e.ran && e.chunk.isNone && !optGated s e
    && (List.range (cdiv (shareOf s (parseDesc e.rx 0x40) k).length 65536)).any fun c => !e.chunks.contains (k, c)

/-- Unit k processes a running command (R307, R308, R338): it holds an element of an OPT_UPDATE whose chunk is not done or whose Q copy is still to
be made, or of the source of a SCAN, QUANT or DIGEST. -/
def unitWork (s : State) (k : Nat) : Bool :=
  s.cmd.streams.any fun x => x.2.journal.any fun e =>
    let op := rOpc e.bytes
    let sub := rSub e.bytes
    let share (off : Nat) : Nat := (shareOf s (parseDesc e.rx off) k).length
    !e.refused && e.st = .running && !e.ran && e.stop.isNone
      && ((op = 0x30 && !optGated s e && share 0x40 ≠ 0
          && (bit (leNat (slice e.rx 0x1DC 4)) 2 || (List.range (cdiv (share 0x40) 65536)).any fun c => !e.chunks.contains (k, c)))
        || (op = 0x31 && (sub = 2 || sub = 6) && share 0x80 ≠ 0) || (op = 0x52 && share 0x40 ≠ 0 && !s.lnk.colls.any fun c => c.st = x.1 && c.seq = e.seq))

/-! ### SCALE_UPDATE (R333 to R337) -/

/-- Add to the nonfinite count of a step record. -/
def addNonfinite (s : State) (st : Nat) (q : W64) (e : Entry) (a n : Nat) : State :=
  let r := parseStep (recAt s e a)
  loggedWrite s st q a (stepBytes { r with nonfinite := (r.nonfinite + n) % 2 ^ 64 })

/-- Run a SCALE_UPDATE other than AGREE by its sub-operation. -/
def runScale (s : State) (st : Nat) (q : W64) (e : Entry) (sub : Nat) : State :=
  let rx := e.rx
  let a := wordAt rx 0x40 % 2 ^ 44
  let fin (s : State) (aux : Nat) (rep : Rep) : State :=
    modCmd s st q fun e => { e with ran := true, aux := BitVec.ofNat 32 aux, nrep := rep.word }
  if e.ran || e.stop.isSome then s
  else
    let (s, bad) := meetCmd s rx
    match bad with
    | some x => modCmd s st q fun e => { e with stop := some (.uncorr x) }
    | none =>
      match sub with
      | 1 => fin (loggedWrite s st q a (stepBytes (initStep rx (dropD s a)))) 0 {}
      | 2 =>
        let d := parseDesc rx 0x80
        if !unitsReady s d then s else
        let n := ((List.range d.total).filter fun i => !(elVal d.fmt (readEl s.mem d (tupleOf d.counts i))).isFin).length
        fin (countElems (addNonfinite s st q e a n) d) (sat 0xFFFFFFFF n) {}
      | 4 =>
        let r := parseStep (recAt s e a)
        fin (loggedWrite s st q a (stepBytes (r.commit (dropD s a r.dPlan)))) 0 {}
      | 5 =>
        let ei := sgn 8 (fieldAt rx 0x48 0 8)
        fin (loggedWrite s st q a (scaleBytes { h := fieldAt rx 0x48 8 4, eInit := ei, eLast := ei })) 0 {}
      | _ =>
        let src := parseDesc rx 0x80
        let qd := parseDesc rx 0xC0
        match fmtOf qd.fmt with
        | none => s
        | some f =>
          if src.total = 0 then fin s 0 {}
          else if !unitsReady s src then s
          else
            let xs := (List.range src.total).map fun i => widen32 src.fmt (readEl s.mem src (tupleOf src.counts i))
            let (ex, qs, rp, corr, bad, ts) := (parseScale (recAt s e a)).use f xs xs
            let wr := (qs.zipIdx).map fun x => (qd.bitAddr (tupleOf src.counts x.2), qd.width, x.1)
            let s := storeAll (unitShare s src true (if corr then [qd, qd] else [qd])) wr
            let s := if corr then unitShare s src false [src] else s
            let s := loggedWrite (countCorr (fillScales s rx 0x100 qd ex) corr) st q a (scaleBytes ts)
            let ra := wordAt rx 0x48 % 2 ^ 44
            let s := if ra = 0 then s else addNonfinite s st q e ra bad
            fin (countElems s src) (b2n corr + (sat 0xFFFFFF bad) <<< 8) rp

/-! ### DIGEST (R435 to R438) -/

/-- The digest of some limbs (R436): the two hashes and the count. -/
def limbDigest (seed : Nat) (l : List Nat) : Nat × Nat × Nat :=
  let p := 2 ^ 61 - 1
  let r0 := 2 + seed % (p - 3)
  let r1 := 2 + (seed ^^^ 0x5bd1e9959e3779b9) % (p - 3)
  l.foldl (fun (acc : Nat × Nat × Nat) x => ((acc.1 * r0 + x + 1) % p, (acc.2.1 * r1 + x + 1) % p, acc.2.2 + 1)) (0, 0, 0)

/-- The digest of a tensor (R436): each element contributes its limbs. -/
def digestOf (m : Mem) (d : Desc) (seed : Nat) : Nat × Nat × Nat :=
  limbDigest seed ((List.range d.total).flatMap fun i =>
    let e := readEl m d (tupleOf d.counts i)
    (List.range (cdiv d.width 32)).map fun j => bits e (32 * j) 32)

/-- The 32-byte digest record (R438). -/
def digestRec (m : Mem) (d : Desc) (seed : Nat) : List Byte :=
  let (h0, h1, n) := digestOf m d seed
  natLe 8 h0 ++ natLe 8 h1 ++ natLe 8 n ++ natLe 8 d.fmt

/-- DIGEST COMPUTE and COMPARE (R435, R438), once the units hold their grants (R490): a mismatch is an event too (R413). -/
def runDigest (s : State) (st : Nat) (q : W64) (e : Entry) (cmp : Bool) : State :=
  let rx := e.rx
  if e.ran || e.stop.isSome then s
  else
    let d := parseDesc rx 0x40
    if !unitsReady s d then s else
    let (s, bad) := meetCmd s rx
    match bad with
    | some x => modCmd s st q fun e => { e with stop := some (.uncorr x) }
    | none =>
      let r := digestRec s.mem d (wordAt rx 0x88)
      let want := rd s.mem (wordAt rx 0x98 % 2 ^ 44) 24
      let s := if cmp then tally s 2 false (wordAt rx 0x98 % 2 ^ 44) 24 else s
      let s := countElems (store (tally s 2 true (wordAt rx 0x90 % 2 ^ 44) 32) (wordAt rx 0x90 % 2 ^ 44) r) d
      let f : Status := if cmp && r.take 24 ≠ want then 0x0702 else 0
      let s := if f = 0 then s else raise s 0x24 0 0 11 0 (some (st, rTag e.bytes, 0, q))
      let s := modStrm s st fun x => { x with lastDigest := f }
      modCmd s st q fun e => { e with ran := true, status := f }

end Sys2Proof.Machine
end

