-- ==== Sys2Proof/Machine/Access.lean ====
section
/-! DEFINITION. How an access of the host reaches the device (R509, R562, R569 to R573), and the outcome of a command. -/

namespace Sys2Proof.Machine

/-- A command completes: the machine goes on from a state. -/
abbrev Res := Host.Outcome State Fault Refusal

/-- The host link carries accesses: the device is powered and past POWERUP, the link is up and IO0 is in service (R50, R504, R572). -/
def hostOn (s : State) : Bool := s.pwr.phase = .on && s.cfg.st ≠ .powerup && s.hif.up && s.ras.io0

/-- Count an access that R569 or R572 refuses, and hold its address (R577). -/
def countBad (s : State) (bar off : Nat) : State :=
  let h := s.hif
  { s with hif := { h with badAcc := sat 0xFFFF (h.badAcc + 1), badNew := true,
                           errAddr := if h.badNew then h.errAddr else BitVec.ofNat 64 (off % 2 ^ 31 + bar <<< 31) } }

/-- The IDE lock turns an access away (R562). -/
def ideShut (s : State) (sec : Bool) : Bool := s.sec.lock && !sec

/-- An access inside a secure IDE stream while no stream is secure: the stream carries nothing until its keys are programmed again (R561). -/
def secGone (s : State) (sec : Bool) : Bool := sec && s.sec.ide = 0

/-- A write to a BAR0 register acts: inside a secure stream where locked, and not in HOLD (R509, R562). -/
def hostRow (s : State) (sec : Bool) (f : State → State) : State :=
  if !hostOn s || secGone s sec then s else if ideShut s sec then reply s .unsupported else if inHold s then s else f s

/-- A write to a doorbell page acts (R509, R562, R572). -/
def bellRow (s : State) (sec : Bool) (off : Nat) (f : State → State) : State :=
  if !hostOn s || secGone s sec then s else if ideShut s sec then reply s .unsupported
  else if !s.cfg.entered then countBad s 1 off else if inHold s then s else f s

end Sys2Proof.Machine
end

