-- ==== Sys2Proof/Machine/Records.lean ====
section
/-! DEFINITION. The rows of command streams: consumption and running of records that one device serves alone, doorbells, starts,
plans, completions, stream and ring control (R185 to R240, R245, R251). -/

namespace Sys2Proof.Machine

/-! ### Record rows -/

/-- Running commands of a stream go on (R42, R51, R475). -/
def runnable (s : State) (st : Nat) : Bool := ready s && !(bound s st && 2 ≤ s.job.st)

/-- One record row: consume the next record, or run the running command (R213, R223). -/
def recRow (s : State) (st : StreamId) (ph : Phase) (key : Nat) (run : State → Nat → W64 → Entry → State) : State :=
  let n := st.toNat
  match ph with
  | .consume => consumeRow s n key
  | .run =>
    if !runnable s n then s
    else match runningIx (strmOf s n) key with
      | none => s
      | some i => match (strmOf s n).journal[i]? with
        | none => s
        | some e => if e.stop.isSome then s else run s n e.seq e

/-- A compute command runs: its plan's jobs (R245). -/
def runJobs (s : State) (st : Nat) (q : W64) (_ : Entry) : State := runCompute s st q

/-- COPY (R202) -/
def execCopy (st : StreamId) (ph : Phase) (s : State) : Res := .next (recRow s st ph 0x100 runMove)
/-- GATHER (R203) -/
def execGather (st : StreamId) (ph : Phase) (s : State) : Res := .next (recRow s st ph 0x200 runMove)
/-- SCATTER (R203) -/
def execScatter (st : StreamId) (ph : Phase) (s : State) : Res := .next (recRow s st ph 0x300 runMove)
/-- MATMUL (R196) -/
def execMatmul (st : StreamId) (ph : Phase) (s : State) : Res := .next (recRow s st ph 0x1000 runJobs)
/-- GMATMUL (R201) -/
def execGmatmul (st : StreamId) (ph : Phase) (s : State) : Res := .next (recRow s st ph 0x1100 runJobs)
/-- EWISE (R198) -/
def execEwise (st : StreamId) (ph : Phase) (s : State) : Res := .next (recRow s st ph 0x1200 runJobs)
/-- REDUCE (R127, R198) -/
def execReduce (st : StreamId) (ph : Phase) (s : State) : Res := .next (recRow s st ph 0x1300 runJobs)
/-- TOPK (R198) -/
def execTopk (st : StreamId) (ph : Phase) (s : State) : Res := .next (recRow s st ph 0x1400 runJobs)
/-- RUN_PROGRAM (R167): its product jobs run the bound program. -/
def execRunProgram (st : StreamId) (ph : Phase) (s : State) : Res := .next (recRow s st ph 0x1500 runJobs)
/-- OPT_UPDATE (R310 to R325) -/
def execOptUpdate (st : StreamId) (ph : OptPhase) (s : State) : Res :=
  .next (match ph with
    | .consume => recRow s st .consume 0x3000 runOpt
    | .run => recRow s st .run 0x3000 runOpt
    | .laneFault k lasting => recRow s st .run 0x3000 fun s _ _ e => if unitComputes s e k.val then laneFault s k.val lasting else s)
/-- INIT_STEP (R334) -/
def execInitStep (st : StreamId) (ph : Phase) (s : State) : Res := .next (recRow s st ph 0x3101 fun s n q e => runScale s n q e 1)
/-- SCAN (R335) -/
def execScan (st : StreamId) (ph : Phase) (s : State) : Res := .next (recRow s st ph 0x3102 fun s n q e => runScale s n q e 2)
/-- COMMIT (R327) -/
def execCommit (st : StreamId) (ph : Phase) (s : State) : Res := .next (recRow s st ph 0x3104 fun s n q e => runScale s n q e 4)
/-- INIT_TSCALE (R334) -/
def execInitTscale (st : StreamId) (ph : Phase) (s : State) : Res := .next (recRow s st ph 0x3105 fun s n q e => runScale s n q e 5)
/-- QUANT (R337) -/
def execQuant (st : StreamId) (ph : Phase) (s : State) : Res := .next (recRow s st ph 0x3106 fun s n q e => runScale s n q e 6)
/-- SIGNAL (R226) -/
def execSignal (st : StreamId) (ph : Phase) (s : State) : Res := .next (recRow s st ph 0x4000 runSignal)
/-- WAIT (R227) -/
def execWait (st : StreamId) (ph : Phase) (s : State) : Res := .next (recRow s st ph 0x4100 runWait)
/-- FENCE (R229) -/
def execFence (st : StreamId) (ph : Phase) (s : State) : Res := .next (recRow s st ph 0x4200 runFence)
/-- DIGEST COMPUTE (R436) -/
def execDigestCompute (st : StreamId) (ph : Phase) (s : State) : Res := .next (recRow s st ph 0x5201 fun s n q e => runDigest s n q e false)
/-- DIGEST COMPARE (R438) -/
def execDigestCompare (st : StreamId) (ph : Phase) (s : State) : Res := .next (recRow s st ph 0x5202 fun s n q e => runDigest s n q e true)
/-- LOAD_PROGRAM (R204) -/
def execLoadProgram (st : StreamId) (ph : Phase) (s : State) : Res := .next (recRow s st ph 0x7000 fun s n q e => runLoad s n q e false)
/-- LOAD_PROGRAM, direct (R170) -/
def execLoadProgramDirect (st : StreamId) (ph : Phase) (s : State) : Res := .next (recRow s st ph 0x7001 fun s n q e => runLoad s n q e true)

/-- OPCODE_REFUSED (R193, R213): a record whose opcode is not defined, or not permitted, is consumed and refused. -/
def execOpcodeRefused (st : StreamId) (s : State) : Res :=
  .next (consume s st.toNat fun s r ok => ok && !opPermitted s (strmOf s st.toNat) r)

/-- RECORD_UNREADABLE (R607) -/
def execRecordUnreadable (st : StreamId) (s : State) : Res := .next (consume s st.toNat fun _ _ ok => !ok)

/-! ### Doorbells (R209, R210, R212) -/

/-- A write of pi (R210). -/
def setPi (s : State) (st : Nat) (pi : BitVec 32) : State :=
  let x := strmOf s st
  if !x.opened || bit x.cfg.toNat 2 then s
  else if 2 ^ bits x.cfg.toNat 8 4 < (pi - x.ci).toNat then modStrm s st fun x => { x with ovr := true }
  else modStrm s st fun x => { x with pi := pi }

/-- DB_PI_WRITE (R210) -/
def execDbPiWrite (sec : Bool) (st : StreamId) (pi : BitVec 32) (s : State) : Res :=
  .next (bellRow s sec (st.toNat * 4096) fun s => setPi s st.toNat pi)

/-! ### Starts and phases -/

/-- COMMAND_START (R223, R231) -/
def execCommandStart (st : StreamId) (s : State) : Res :=
  .next (match nextStart s st.toNat with
    | none => s
    | some (i, e) => if brkHit s.cmd.brk st.toNat e then breakAt s st.toNat e else startCmd s st.toNat i e)

/-- WORKSPACE_WAIT_PLAN (R251): the first command that waits plans once its workspace fits. -/
def execWorkspaceWaitPlan (st : StreamId) (s : State) : Res :=
  .next (match waitOrder s with
    | (n, q) :: _ => if n = st.toNat && runnable s n then planCmd s n q else s
    | [] => s)

/-- Publish the next phase of the first command of a stream whose current phase is drained (R245). -/
def publishNext (s : State) (st : Nat) : List Entry → State
  | [] => s
  | e :: r =>
    if e.refused || e.st ≠ .running then publishNext s st r
    else match stepPhase s st e.seq with
      | some s' =>
        match (cmdOf s' st e.seq).bind fun x => x.plan.bind curPhase with
        | some ph => publish s' st e.seq ph
        | none => s'
      | none => publishNext s st r

/-- The outputs that a stream's running commands have staged are copied to their destinations (R222, R286). -/
def copyOuts (s : State) (st : Nat) : State :=
  (strmOf s st).journal.foldl (fun s e => if e.refused || e.st ≠ .running then s else copyOut s st e.seq) s

/-- PHASE_PUBLISH (R245) -/
def execPhasePublish (st : StreamId) (s : State) : Res :=
  .next (if runnable s st.toNat then (let s := copyOuts s st.toNat; publishNext s st.toNat (strmOf s st.toNat).journal) else s)

/-- The staging engine of a block's store die holds its grant (R490, log entry 44). -/
def stagingGrant (s : State) (blk : Nat) : Bool := s.pwr.held.any (·.1 = .staging (blk % 4))

/-- STAGE_BLOCK_DONE (R258, R284 to R287, R490): a staging engine that holds its grant has copied a block that the command wants into a slot; the jobs whose blocks are all staged
are published. The engines wait while no slot is free, and stage nothing in HOLD or for a held stream. -/
def execStageBlockDone (st : StreamId) (blk : Nat) (s : State) : Res :=
  let n := st.toNat
  .next (if !runnable s n || !stagingGrant s blk then s
    else match (strmOf s n).journal.find? fun e => !e.refused && e.st = .running && e.stop.isNone && (wantedBlks s n e).contains blk with
      | none => s
      | some e => match (wantedKeys s n e).find? (·.1 = blk) with
        | none => s
        | some k => match stageSlot s n e k with
          | none => s
          | some (s, i) => growBatch (stageBlock s n e.seq blk k.2 i) n e.seq)

/-! ### Failures of running commands -/

/-- The first running command of a stream that stopped in a given way. -/
def stopped (s : State) (st : Nat) (f : Stop → Bool) : Option Entry :=
  (strmOf s st).journal.find? fun e => !e.refused && e.st = .running && (match e.stop with | some x => f x | none => false)

/-- No two copies of a job agreed (R420): the outputs are poisoned and the command ends with 0x0701. -/
def failUnresolved (s : State) (st : Nat) (e : Entry) (t : TileNo) : State :=
  let s := poisonOut s e.rx (planAnchor e)
  modCmd s st e.seq fun e => { e.finish 0x0701 with aux := t.setWidth 32 }

/-- TRAP_SCAN (R129, R420): once the jobs in flight have ended, a trapped command is scanned; one whose job stayed unresolved fails. -/
def execTrapScan (st : StreamId) (s : State) : Res :=
  let n := st.toNat
  .next (match stopped s n fun | .trap _ => true | .unresolved _ => true | _ => false with
    | some e =>
      if inFlight s n e.seq || !runnable s n then s
      else match e.stop with
        | some (.unresolved t) => failUnresolved s n e t
        | some (.trap c) => scanTrap s n e c
        | _ => s
    | none => s)

/-- UNCORRECTABLE_COMMAND_FAIL (R296, R297) -/
def execUncorrectableCommandFail (st : StreamId) (s : State) : Res :=
  let n := st.toNat
  .next (match stopped s n fun | .uncorr _ => true | .lost _ => true | _ => false with
    | none => s
    | some e =>
      if inFlight s n e.seq || !runnable s n then s
      else match e.stop with
        | some (.uncorr a) => failBad s n e 0x0502 a
        | some (.lost a) => failBad s n e 0x0503 a
        | _ => s)

/-- SCHEDULE_FAULT_RESOLVE (R162, R163, R182): the failed job of least index is reported, the outputs poisoned. -/
def execScheduleFaultResolve (st : StreamId) (s : State) : Res :=
  let n := st.toNat
  .next (match stopped s n fun | .sched .. => true | _ => false with
    | none => s
    | some e =>
      if inFlight s n e.seq || !runnable s n then s
      else match e.stop with
        | some (.sched _ r0 r1 r2 r3) =>
          let s := if bit s.til.sflt.1.toNat 63 then s else { s with til := { s.til with sflt := (r0, r1, r2, r3) } }
          let (pid, gen) := match e.plan with | some p => (p.pid.toNat, p.gen.toNat) | none => (0, 0)
          let rec_ := natLe 8 r0.toNat ++ natLe 8 r1.toNat ++ natLe 8 r2.toNat ++ natLe 8 r3.toNat ++ natLe 8 e.seq.toNat
            ++ natLe 8 (pid + gen <<< 16) ++ natLe 16 0
          let s := poisonOut s e.rx (planAnchor e)
          let s := if rNrec e.bytes = 0 then s else storeCtl s (rNrec e.bytes) rec_
          modCmd s n e.seq fun e => e.finish (BitVec.ofNat 16 r0.toNat)
        | _ => s)

/-! ### Leaving MAINTENANCE (R508) -/

/-- A command that only MAINTENANCE runs (R53, R204, R508): it names INT4, INT8 or INT32, or it is a direct load. -/
def maintOnly (e : Entry) : Bool :=
  (rOpc e.bytes = 0x70 && bit (rSub e.bytes) 0) || (recDescs e.rx).any fun d => 0x10 ≤ d.1.fmt && d.1.fmt ≤ 0x12

/-- An accepted command of that kind has not completed. -/
def maintBusy (s : State) : Bool :=
  s.cmd.streams.any fun x => x.2.journal.any fun e => !e.refused && (e.st = .accepted || e.st = .running) && maintOnly e

/-- A request to leave MAINTENANCE takes effect once nothing holds it (R508, R552). -/
def tryLeave (s : State) : State :=
  if s.cfg.st = .maintenance && s.cfg.maintReq = 2 && !s.cfg.handover && !maintBusy s then
    setState { s with cfg := { s.cfg with maintReq := 0 } } .service
  else s

/-! ### Completion (R236 to R240, R470) -/

/-- A command's effects are over: it ran, nothing stopped it, every answer has come and every shadow compared equal. -/
def effectsOver (e : Entry) : Bool := e.ran && e.stop.isNone && e.waits = [] && e.shadowed = [] && e.copies = []

/-- The first running command whose effects are over goes to done (R220, R237): its workspace is freed and a loaded program counts as the
latest completed generation (R167). -/
def completeCmd (s : State) (st : StreamId) : State :=
  let n := st.toNat
  let s0 := if runnable s n then copyOuts s n else s
  match (strmOf s0 n).journal.find? fun e => !e.refused && e.st = .running && effectsOver e with
    | none => s0
    | some e =>
      if !runnable s n then s
      else
        let s := dropBlocks s0 n e.seq
        let s := modCmd s n e.seq fun e => { e with st := .done, plan := none, work := [], blocks := [] }
        if rOpc e.bytes = 0x70 && e.status = 0 then
          let fin (p : Prog) : Prog := if p.pid = rProg e.bytes && some p.gen = e.gen then { p with done := true } else p
          { s with til := { s.til with progs := s.til.progs.map fin } }
        else s

/-- COMMAND_COMPLETE (R220, R237, R508) -/
def execCommandComplete (st : StreamId) (s : State) : Res := .next (tryLeave (completeCmd s st))

/-- COMPLETION_ENTRY_WRITE (R237 to R239) -/
def execCompletionEntryWrite (st : StreamId) (s : State) : Res := .next (tryLeave (writeEntry s st.toNat))

/-! ### Opening and closing (R185 to R189) -/

/-- Bytes of the retained pool that a stream takes (R187): its queue and its journal. -/
def poolBytes (x : Stream) : Nat := 256 * 2 ^ bits x.cfg.toNat 8 4 + 1024 * 2 ^ bits x.cfg.toNat 12 4

/-- Base and size of the retained pool (R187, R276). -/
def poolRange (c : Conf) : Nat × Nat := (rgnBase c 3 * page + 0x1000000, rgnSize c 3 * page - 0x1000000)

/-- The blocks of the pool in use, in rising order. -/
def poolBlocks (s : State) : List (Nat × Nat) :=
  ((s.cmd.streams.filter (·.2.opened)).map fun x => (x.2.qbase, poolBytes x.2)).mergeSort fun a b => a.1 ≤ b.1

/-- Bytes that mirrors and entries of escorted devices take in the pool (R450). -/
def escortBytes (s : State) : Nat := 1024 * (s.esc.slots.map fun x => x.2.items.length).sum

/-- The lowest place of the pool with n free bytes (log entry 35); mirrors of escorted devices take the pool's end. -/
def poolPlace (s : State) (n : Nat) : Option Nat :=
  let (b, sz) := poolRange s.cfg.conf
  let top := b + sz - escortBytes s
  let bl := poolBlocks s
  (b :: bl.map fun x => x.1 + x.2).find? fun a => a + n ≤ top && bl.all fun x => a + n ≤ x.1 || x.1 + x.2 ≤ a

/-- An ADOPT waits for its answer, or was answered with 0x0607 (R459, R460, log entry 82). -/
def adoptOpen (s : State) : Bool := s.esc.denied || s.lnk.sent.any fun x => x.txn.ttype = 0x37

/-- The escort takes mirrors (R449, R454), and what it held has been adopted (R460). -/
def escReady (s : State) : Bool := s.esc.st = 1 && s.esc.wd = [] && !adoptOpen s

/-- Open a stream (R187, R209); one bound to the job must be Escorted (R528). -/
def openStream (s : State) (st : Nat) : State :=
  let x := strmOf s st
  if x.opened then s
  else
    let q := bits x.cfg.toNat 8 4
    let j := bits x.cfg.toNat 12 4
    let place := if 4 ≤ q && q ≤ 12 && 4 ≤ j && j ≤ 10 && !(bound s st && !escorted x) then poolPlace s (poolBytes x) else none
    match place with
    | none => modStrm s st fun x => { x with openErr := true }
    | some a =>
      let s := modStrm s st fun x =>
        { x with opened := true, paused := false, closing := false, escOk := escorted x && escReady s, qbase := a, pi := 0, ci := 0,
                 nseq := 0, cseq := 0, lastDigest := 0, journal := x.journal.filter (·.refused) }
      if x.nseq = 0 then s else awbWrite s st

/-- Close a stream (R186). -/
def closeStream (s : State) (st : Nat) : State := if (strmOf s st).opened then modStrm s st fun x => { x with closing := true } else s

/-- Pause or resume a stream (R186, R188). -/
def pauseStream (s : State) (st : Nat) (p : Bool) : State := if (strmOf s st).opened then modStrm s st fun x => { x with paused := p } else s

/-- STREAM_OPEN (R187) -/
def execStreamOpen (sec : Bool) (s : State) : Res := .next (hostRow s sec fun s => openStream s s.selH.strm.toNat)
/-- STREAM_CLOSE (R186) -/
def execStreamClose (sec : Bool) (s : State) : Res := .next (hostRow s sec fun s => closeStream s s.selH.strm.toNat)
/-- STREAM_PAUSE (R188) -/
def execStreamPause (sec : Bool) (s : State) : Res := .next (hostRow s sec fun s => pauseStream s s.selH.strm.toNat true)
/-- STREAM_RESUME (R188) -/
def execStreamResume (sec : Bool) (s : State) : Res := .next (hostRow s sec fun s => pauseStream s s.selH.strm.toNat false)

/-- STREAM_CLOSE_EFFECT (R186): every accepted command has completed and its entry has been consumed; the write to retained state waits for a rebuild of
it (R42). -/
def execStreamCloseEffect (st : StreamId) (s : State) : Res :=
  let n := st.toNat
  let x := strmOf s n
  .next (if x.opened && x.closing && !s.ser.rebuild && x.journal.all (·.refused) then
      modStrm s n fun x => { x with opened := false, closing := false, paused := false, escOk := false, qbase := 0 } else s)

/-- ESCORT_TIMEOUT (R217): the pending record is refused with 0x010E, withdrawn, and esc_ok clears. Its refusal entry waits for the
answer of the withdrawal (R454). A rebuild of retained state holds it up (R42). -/
def execEscortTimeout (st : StreamId) (s : State) : Res :=
  let n := st.toNat
  .next (match (strmOf s n).journal.find? fun e => e.st = .pending && !e.wdWait with
    | none => s
    | some e =>
      if s.ser.rebuild then s else
      let s := modStrm s n fun x =>
        { x with escOk := false, journal := x.journal.map fun y =>
            if y.seq = e.seq && y.st = .pending then { y with st := .done, refused := true, status := 0x010E, wdWait := true } else y }
      let s := { s with esc := { s.esc with wd := (n, e.seq) :: s.esc.wd } }
      let s := { s with lnk := { s.lnk with sent := s.lnk.sent.filter fun x => x.why ≠ .mirror n e.seq } }
      sendTxn s 0x31 1 s.cfg.conf.escort (BitVec.ofNat 64 n) e.seq [] (.withdraw n e.seq))

/-! ### Sync objects, breakpoints, functions and rings -/

/-- CMD_SYNC_ADD (R228) -/
def execCmdSyncAdd (sec : Bool) (v : W64) (s : State) : Res := .next (hostRow s sec fun s => syncUpdate s s.selH.sync.toNat false v)
/-- CMD_SYNC_MAX (R228) -/
def execCmdSyncMax (sec : Bool) (v : W64) (s : State) : Res := .next (hostRow s sec fun s => syncUpdate s s.selH.sync.toNat true v)
/-- BREAKPOINT_RESUME (R231) -/
def execBreakpointResume (sec : Bool) (s : State) : Res := .next (hostRow s sec fun s => pauseWatched s false)
/-- CMD_FN_DIS (R233): bit 4 ignores writes. -/
def execCmdFnDis (sec : Bool) (v : W64) (s : State) : Res :=
  .next (hostRow s sec fun s => { s with cmd := { s.cmd with fnDis := BitVec.ofNat 8 v.toNat &&& 0xEF } })

/-- A ring is placed correctly (R240). -/
def ringPlaced (c : Conf) (base cfg : W64) : Bool :=
  let n := 32 * 2 ^ bits cfg.toNat 0 5
  base.toNat % n = 0
    && (!bit cfg.toNat 5 || bits base.toNat 44 20 = 0)
    && (!bit cfg.toNat 5 || bit cfg.toNat 6 || openRange c base.toNat n)

/-- A write to CMD_CRING_CFG (R240). -/
def writeRingCfg (s : State) (ri : Nat) (v : W64) : State :=
  let r := ringOf s ri
  let clr (x : W64) : W64 := if bit v.toNat 10 then setBits x 10 1 0 else x
  let err (s : State) : State := modRing s ri fun r => { r with cfg := setBits (clr r.cfg) 10 1 1 }
  let n := bits v.toNat 0 5
  let v' := setBits v 10 1 (bits (clr r.cfg).toNat 10 1)
  if n < 6 || 16 < n || bits v.toNat 8 2 = 3 || bits v.toNat 11 5 ≠ 0 || bits v.toNat 27 5 ≠ 0 || bits v.toNat 48 16 ≠ 0 then
    if bit v.toNat 10 then modRing s ri fun r => { r with cfg := clr r.cfg } else err s
  else if bit r.cfg.toNat 7 then
    let same := setBits v' 7 1 1 = setBits (clr r.cfg) 7 1 1
    let s := modRing s ri fun r => { r with cfg := setBits (clr r.cfg) 7 1 (bits v.toNat 7 1) }
    if same then s else modRing s ri fun r => { r with cfg := setBits r.cfg 10 1 1 }
  else if bit v.toNat 7 && !ringPlaced s.cfg.conf r.base v then err s
  else modRing s ri fun r => { r with cfg := v' }

/-- A write to CMD_CRING_BASE (R240). -/
def writeRingBase (s : State) (ri : Nat) (v : W64) : State :=
  modRing s ri fun r => if bit r.cfg.toNat 7 then { r with cfg := setBits r.cfg 10 1 1 } else { r with base := v }

/-- A write of a ring's head (R240): entries behind it are freed (R220). -/
def writeHead (s : State) (ri : Nat) (h : BitVec 32) : State :=
  let r := ringOf s ri
  if (r.tail - r.head).toNat < (h - r.head).toNat then modRing s ri fun r => { r with cfg := setBits r.cfg 10 1 1 }
  else freeEntries (modRing s ri fun r => { r with head := h }) ri

/-- CMD_CRING_CFG (R240) -/
def execCmdCringCfg (sec : Bool) (v : W64) (s : State) : Res := .next (hostRow s sec fun s => writeRingCfg s s.selH.cring.toNat v)
/-- CMD_CRING_HT (R240) -/
def execCmdCringHt (sec : Bool) (ring : BitVec 11) (head : BitVec 32) (s : State) : Res :=
  .next (hostRow s sec fun s => writeHead s ring.toNat head)

/-- A visit-order value is in range (R259). -/
def voOk (v : Nat) : Bool :=
  bits v 1 2 < 2 && bits v 3 4 ≤ 12 && bits v 7 2 < 3 && (if bits v 7 2 = 2 then 1 ≤ bits v 9 7 && bits v 9 7 ≤ 64 else bits v 9 7 = 0)
    && bits v 25 39 = 0

/-- A write to TIL_VO_ENT (R259). -/
def writeVo (s : State) (e : Nat) (v : W64) : State :=
  if e = 0 || !voOk v.toNat then { s with til := { s.til with voErr := true } }
  else { s with til := { s.til with vo := tput s.til.vo e v 0 } }

/-- TIL_VO_ENT (R259) -/
def execTilVoEnt (sec : Bool) (v : W64) (s : State) : Res := .next (hostRow s sec fun s => writeVo s s.selH.vo.toNat v)

end Sys2Proof.Machine
end

