-- ==== Sys2Proof/Machine/Trace.lean ====
section
/-! DEFINITION. The jobs of a TRACE and the evidence records that they form (R389 to R397). -/

namespace Sys2Proof.Machine

/-! ### Records of TRACE (R389 to R397) -/

/-- The environment of a TRACE: that of a MATMUL with the same operands, its draws at the recorded coordinates (R390). -/
def traceEnv (m : Mem) (rx : List Byte) : Env :=
  let v := { recEnv m rx 0 with opc := 0x10, off := (fieldAt rx 0x228 0 32, fieldAt rx 0x228 32 32, fieldAt rx 0x230 0 32) }
  { v with anchor := v.findAnchor }

/-- A selection entry (R389). -/
def selEntry (m : Mem) (rx : List Byte) (i : Nat) : Nat × Nat × Nat :=
  let w := leNat (rd m (wordAt rx 0x200 % 2 ^ 44 + 16 * i) 16)
  (bits w 0 32, bits w 32 32, bits w 64 32)

/-- An entry is in range (R389). -/
def selIn (v : Env) (x : Nat × Nat × Nat) : Bool :=
  x.1 < v.o.prod [2, 3, 4, 5] && x.2.1 < v.mm && x.2.2 < v.nn

/-- The products of an output in the order of R391: NaN terms, infinite terms, then finite ones by falling magnitude. -/
def orderTerms (v : Env) (b m n : Nat) : List Nat :=
  let val (k : Nat) : Val := v.product (v.factors b m n k)
  let cls (k : Nat) : Nat := match val k with | .nan => 0 | .inf _ => 1 | .fin .. => 2
  let mag (k : Nat) : Val := match val k with | .fin _ a d e => .fin false a d e | x => x
  (List.range v.kk).mergeSort fun i j =>
    cls i < cls j || (cls i = cls j && (if cls i = 2 then (mag j).lt (mag i) || (!(mag i).lt (mag j) && i ≤ j) else i ≤ j))

/-- What a TRACE records of an output under a numerics level other than NL1 (R390, log entry 104). -/
def levelTraced (v : Env) (b m n i : Nat) : Nat :=
  let r := levelRec v.rx
  Config.levelTrace (nlOf v.rx) r (inputCells v.m r) (v.o.bitAddr (n :: m :: batchTuple v.o b)) i

/-- A term entry (R395): the flags and the placed integer are the numerics level's (R390). -/
def termEntry (v : Env) (b m n k : Nat) : List Byte :=
  let f := v.factors b m n k
  let w := (v.place b m n k (v.product f)).word
  let nl1 := nlOf v.rx = 1
  let x := levelTraced v b m n (1 + k)
  let fl := if nl1 then b2n w.rnd + 2 * b2n w.sat + 4 * b2n w.nan + 8 * b2n w.pinf + 16 * b2n w.ninf else bits x 0 5
  let placed := if nl1 then w.val.toNat else x >>> 5
  natLe 4 k ++ natLe 2 f.ea ++ natLe 1 (f.sa.getD 0) ++ natLe 2 f.eb ++ natLe 1 (f.sb.getD 0) ++ natLe 1 fl ++ natLe 1 0
    ++ natLe 19 (placed % 2 ^ 152) ++ natLe 1 0

/-- The vector image of a row of A or a column of B (R396). `model` says that it is the model's. -/
def vectorImage (v : Env) (b m n : Nat) (isA model : Bool) : List Byte :=
  let d := if isA then v.a else v.b
  let s := if isA then v.sa else v.sb
  let w := d.width
  let prv := v.priv.find? fun p => p.1 = n
  let pm := if model && !isA then prv else none
  let el (k : Nat) : Nat := let f := v.factors b m n k; if isA then f.ea else f.eb
  let sc (k : Nat) : Nat := let f := v.factors b m n k; ((if isA then f.sa else f.sb).getD 0)
  let serv := model && bits v.ectl 0 2 = 2
  let vec (off dflt : Nat) (on : Bool) : Nat := if serv && on then leNat (rd v.m (wordAt v.rx off % 2 ^ 44 + 4 * n) 4) else dflt
  natLe 1 d.fmt ++ natLe 1 (if model then 2 else 1) ++ natLe 1 (if s.blk = 0 then 0xFF else s.sfmt) ++ natLe 1 (b2n pm.isSome) ++ natLe 4 v.kk
    ++ natLe 4 (if s.l2 then s.tscale else 0x3F800000) ++ natLe 1 (match pm with | some p => p.2 | none => 0) ++ natLe 3 0
    ++ natLe 4 (if model then vec 0x170 0x3F800000 (bit v.ectl 7) else 0) ++ natLe 4 (vec 0x178 0 (bit v.ectl 8))
    ++ natLe (cdiv (v.kk * w) 8) ((List.range v.kk).foldl (fun a k => a + el k <<< (w * k)) 0)
    ++ (if s.blk = 0 then [] else (List.range v.kk).map fun k => BitVec.ofNat 8 (sc k))

/-- An evidence record (R394) without its serial, and the numeric report of its output (R133). Under another numerics level than NL1 the word and the
output are those of the MATMUL under it (R390, log entry 104). -/
def evRecord (s : State) (v : Env) (st : Nat) (e : Entry) (b m n : Nat) : List Byte × Rep :=
  let rx := e.rx
  let role := bit (wordAt rx 0x208) 32
  let cmp := bit (wordAt rx 0x208) 33
  let w := (v.sum b m n 0 v.kk).word
  let led := v.o.fmt = 0x20
  let t := n :: m :: batchTuple v.o b
  let fin : Nat × Rep := if nlOf rx = 1 then v.final b m n w else (levelEl v.m rx (v.o.bitAddr t) % 2 ^ v.o.width, {})
  let wb := if nlOf rx = 1 then ({ w with anchor := v.anchor } : LWord).bits else if led then fin.1 else levelTraced v b m n 0 % 2 ^ 256
  let y := if led then 0 else fin.1
  let o := if cmp then readEl v.m v.o t else 0
  let same := cmp && (if led then o = wb else o = y)
  let terms := (orderTerms v b m n).take 16
  let w64 (x : Nat) : List Byte := natLe 8 x
  let mref := wordAt rx 0x220 % 2 ^ 44
  let img := slice (
    w64 (0x0101 + (bits v.nctl 0 8) <<< 16 + (b2n same) <<< 24 + (b2n cmp) <<< 25 + (b2n role) <<< 26 + (incarnation s).toNat <<< 32)
    ++ w64 0 ++ w64 (st + rTag rx <<< 16) ++ w64 (rSeq rx).toNat ++ w64 (wordAt rx 0x218)
    ++ natLe 4 (b + v.off.1) ++ natLe 4 (m + v.off.2.1) ++ natLe 4 (n + v.off.2.2) ++ natLe 4 v.kk
    ++ natLe 4 v.nctl ++ natLe 4 v.ectl ++ w64 (rSeed rx)
    ++ natLe 4 (rTid rx) ++ natLe 1 v.cvt ++ natLe 1 v.a.fmt ++ natLe 1 v.b.fmt ++ natLe 1 v.o.fmt
    ++ w64 y ++ w64 (if led then 0 else o) ++ natLe 32 wb
    ++ sha384 (vectorImage v b m n (!role) false) ++ sha384 (vectorImage v b m n role true)
    ++ (if mref = 0 then natLe 48 0 else rd v.m mref 48)
    ++ natLe 8 terms.length ++ natLe 8 0) 0 0x120
  (slice (img ++ terms.flatMap (termEntry v b m n) ++ (List.replicate (16 - terms.length) (natLe 32 0xFFFFFFFF)).flatten) 0 1024, fin.2)

/-! ### The jobs of a TRACE (R392, R393) -/

/-- The environment of a TRACE's jobs, over memory as they read it, with the anchor of its plan. -/
def traceJobEnv (s : State) (st : Nat) (e : Entry) (p : Plan) : Env :=
  { traceEnv (stagedMem s st e.seq (some 0)) e.rx with anchor := BitVec.ofInt 12 p.anchor }

/-- The drain of a TRACE's job fails the residue check: with an error pattern, its word's residue is not the one carried (R139). -/
def traceMism (s : State) (st : Nat) (e : Entry) (p : Plan) (j : Nat) (dev : List (Nat × BitVec 192)) : Bool :=
  let v := traceJobEnv s st e p
  let x := selEntry v.m e.rx j
  selIn v x && (let r := v.sum x.1 x.2.1 x.2.2 0 v.kk; residueBad (faulted dev 1 [r.word]) [r.res])

/-- Job j of a TRACE: one selected output. The words in error that it reads are met first; one that is uncorrectable stops the command. -/
def traceJob (s : State) (st : Nat) (e : Entry) (p : Plan) (j : Nat) : State :=
  let (s, bad) := meetJob s st e p j
  match bad with
  | some a => uncorrStop s st e.seq a
  | none =>
    let v := traceJobEnv s st e p
    let x := selEntry v.m e.rx j
    let w : Work := if selIn v x then
        let (r, rep) := evRecord s v st e x.1 x.2.1 x.2.2
        .record r (levelReport s.mem e.rx rep.word)
      else .record [] 0
    markDrained (modCmd s st e.seq fun e => { e with work := tput e.work j w (.words []) }) st e.seq j

end Sys2Proof.Machine
end

