-- ==== Sys2Proof/Machine/Tiles.lean ====
section
/-! DEFINITION. The rows of the tile engine and of the shared tile counter: slots of a bundle (R150 to R160, R165, R171), transfers and
freezes (R142, R157), instruction-memory banks (R166 to R169), taking and returning jobs (R260 to R264, R493). -/

namespace Sys2Proof.Machine

/-! ### Jobs of a tile -/

/-- Command, plan and index of a tile's job. -/
def jobCmd (s : State) (j : TJob) : Option (Entry × Plan) :=
  if j.ballast then none else (cmdOf s j.st j.seq).bind fun e => e.plan.map fun p => (e, p)

/-- The context of a program job in a tile. -/
def tileCtx (s : State) (j : TJob) : Option (Entry × Plan × JCtx) :=
  match jobCmd s j with
  | some (e, p) =>
    if isProgJob e p j.idx then (imageOf s p.pid p.gen).map fun img => (e, p, jobCtx s j.st e p img j.idx) else none
  | none => none

/-- The binding of a tile's job (R167): the program id, the generation and the image. A job that a library program runs is bound to that
program of the running image, which stands under its opcode and generation 0 (log entry 94). -/
def bindingOf (s : State) (j : TJob) : Option (BitVec 16 × BitVec 32 × List Byte) :=
  match jobCmd s j with
  | some (e, p) =>
    if isProgJob e p j.idx then (imageOf s p.pid p.gen).map fun img => (p.pid, p.gen, img)
    else some (BitVec.ofNat 16 (rOpc e.bytes), 0, [])
  | none => none

/-- Whether a job uses the matrix array (R490): a product job of a matrix command, a job of a TRACE, or of a program with an MMA. -/
def usesArray (s : State) (e : Entry) (p : Plan) (j : Nat) : Bool :=
  let op := rOpc e.bytes
  let prod := match p.phaseOf j with | some ph => ph.kind = 0 | none => false
  if op = 0x15 then
    prod && (match imageOf s p.pid p.gen with
      | some img => (List.range (imgDims img).1).any fun i => bits (leNat (slice img (64 + 32 * i) 32)) 80 4 = 1
      | none => false)
  else prod && (op = 0x10 || op = 0x11 || op = 0x60)

/-- The grant of a job in mW on a tile (R490), its clock fraction counted. -/
def jobMw (s : State) (t : Nat) (j : TJob) : Nat :=
  let f := (rasOf s t).frac
  let full := if j.ballast then 10500 else match jobCmd s j with
    | some (e, p) =>
      if usesArray s e p j.idx then
        let a := (parseDesc e.bytes 0x40).fmt
        let b := (parseDesc e.bytes 0x80).fmt
        if (a = 1 ∧ b = 1) ∨ a = 0x10 then 9400 else if a = 8 ∨ a = 9 then 8600 else 9000
      else 5000
    | none => 5000
  full * f / 16

/-- The consumer that a tile's job asks as (R490, R491). -/
def jobUser (s : State) (t : Nat) (j : TJob) : Consumer :=
  if serving (strmOf s j.st) then .serving (BitVec.ofNat 8 t) else .training (BitVec.ofNat 8 t)

/-- The tile that a consumer is. -/
def userTile : Consumer → Option Nat
  | .serving t => some t.toNat | .training t => some t.toNat | _ => none

/-- The grant that a tile holds. -/
def tileGrant (s : State) (t : Nat) : Option (Consumer × Nat) := s.pwr.held.find? fun h => userTile h.1 = some t

/-- A bank holds a binding. -/
def holds (b : Bank) (x : BitVec 16 × BitVec 32 × List Byte) : Bool := b.pid = x.1 && b.gen = x.2.1

/-- A tile's banks follow the binding of its job (R166, R168): a program in neither bank is loaded into the inactive one, unless that bank is
loading or has a switch pending, and a switch to it is then pending. -/
def bindTile (s : State) (t : Nat) : State :=
  let x := tileOf s t
  match x.job.bind (bindingOf s) with
  | none => s
  | some b =>
    let act := if x.actB then x.imB else x.imA
    let other := if x.actB then x.imA else x.imB
    if x.pendSw || (holds act b && (act.valid || act.loading)) then s
    else if holds other b && (other.valid || other.loading) then modTile s t fun x => { x with pendSw := true }
    else if other.loading then s
    else modTile (loadBank s t (!x.actB) b.1 b.2.1 b.2.2) t fun x => { x with pendSw := true }

/-- A lowered offset acts once every fraction that its plan lowers has taken effect (R442). -/
def lowerOffset (s : State) (c : Nat) : State :=
  match (cluOf s c).lower with
  | none => s
  | some o =>
    if (tilesOf c).any fun t => match (rasOf s t).next with | some f => f < (rasOf s t).frac | none => false then s
    else modClu s c fun k => { k with offset := o, lower := none }

/-- A planned clock fraction takes effect from the tile's next job (R12, R442). -/
def takeFrac (s : State) (t : Nat) : State :=
  match (rasOf s t).next with
  | none => s
  | some f => lowerOffset (modRas s t fun r => { r with frac := f, next := none }) (t / 16)

/-- A tile's ballast grant becomes a job grant (R493). -/
def ballastToJob (s : State) (t : Nat) (j : TJob) : State :=
  if j.ballast || !s.pwr.bal.any (·.1.toNat = t) then s
  else { s with pwr := { s.pwr with bal := s.pwr.bal.filter (·.1.toNat ≠ t), held := s.pwr.held ++ [(jobUser s t j, jobMw s t j)] } }

/-- A tile starts a job (R141, R146, R168, R442, R490): its planned fraction acts, a grant it still holds is adjusted to the job, and its banks
follow the job's binding. -/
def startJob (s : State) (t : Nat) (j : TJob) : State :=
  let s := ballastToJob (takeFrac s t) t j
  let kept := tileGrant s t
  let s := match kept with
    | some _ => { s with pwr := { s.pwr with held := s.pwr.held.map fun h => if userTile h.1 = some t then (jobUser s t j, jobMw s t j) else h } }
    | none => s
  bindTile (modTile s t fun x =>
    { freshTile x with job := some j, granted := j.ballast || kept.isSome, jobs := if j.ballast then x.jobs else x.jobs + 1 }) t

/-- Where a shadowed job's primary copy ran (R434). -/
def notePlace (s : State) (t : Nat) : Option TJob → State
  | some j =>
    match (if j.ballast then none else cmdOf s j.st j.seq) with
    | some e => if e.shadowed.contains j.idx then modCmd s j.st j.seq fun e => { e with places := (j.idx, BitVec.ofNat 8 t) :: e.places } else s
    | none => s
  | none => s

/-- A tile among those that satisfy a condition, chosen by the device (R36). -/
def pickTile (s : State) (f : Nat → Bool) : State × Option Nat :=
  match allTiles.filter f with
  | [] => (s, none)
  | l => (freshFree s, l[(Config.freeValue s.free).toNat % l.length]?)

/-! ### Held jobs and where their replays run (R417, R418) -/

/-- Replace the held record of a tile. -/
def putHeld (s : State) (h : Held) : State :=
  { s with ras := { s.ras with held := s.ras.held.map fun x => if x.tile = h.tile && x.job = h.job then h else x } }

/-- Forget the held record of a tile. -/
def dropHeld (s : State) (h : Held) : State :=
  { s with ras := { s.ras with held := s.ras.held.filter fun x => !(x.tile = h.tile && x.job = h.job) } }

/-- The held job of a tile. -/
def heldOf (s : State) (t : TileNo) : Option Held := s.ras.held.find? (·.tile = t)

/-- A tile runs a replay: it takes no job until that ends (R418). -/
def replayBusy (s : State) (t : Nat) : Bool :=
  s.ras.held.any fun h => !h.open_ && ((match h.nb with | some n => n.toNat = t | none => false) || (match h.sb with | some n => n.toNat = t | none => false))

/-- A tile may run a replay: it takes jobs, runs no other replay, does not hold the job and has not failed a check of this job. -/
def replayTile (s : State) (h : Held) (t : TileNo) : Bool := tileUp s t.toNat && t ≠ h.tile && !h.tried.contains t && !replayBusy s t.toNat

/-- The holding tile's cluster has a tile that may run the neighbour replay. -/
def replayNear (s : State) (h : Held) : Bool := (tilesOf (h.tile.toNat / 16)).any fun u => replayTile s h (BitVec.ofNat 8 u)

/-- The cluster's spare is free for a replay (R418). -/
def freeSpare (s : State) (h : Held) : Option TileNo :=
  let c := h.tile.toNat / 16
  let k := cluOf s c
  let t := BitVec.ofNat 8 (16 * c + k.spare.toNat)
  if k.spare ≠ 15 && !k.filling && cluUp s c && k.ivrOk && t ≠ h.tile && !h.tried.contains t && (rasOf s t.toNat).st = 1 && !replayBusy s t.toNat
    then some t else none

/-- The replays of a held job are placed: the neighbour replay on `n`; the same-tile replay on the tile that held the job or, where that is out of
service, on an idle tile of another cluster that the device chooses (R417, R418). -/
def placeReplay (s : State) (h : Held) (n : TileNo) : State :=
  if tileUp s h.tile.toNat then putHeld s { h with nb := some n, svc := true }
  else
    let (s, sb) := pickTile s fun u => replayTile s h (BitVec.ofNat 8 u) && u / 16 ≠ h.tile.toNat / 16 && u ≠ n.toNat && (tileOf s u).job.isNone
    putHeld s { h with nb := some n, svc := true, sb := sb.map (BitVec.ofNat 8) }

/-- The held job whose neighbour replay a tile runs as it ends a job: one that waits for the first tile of its cluster or, where that has no other
usable tile, of another one (R418). -/
def waitsReplay (s : State) (t : Nat) : Option Held :=
  s.ras.held.find? fun h => h.svc && h.nb.isNone && !h.open_ && (freeSpare s h).isNone && replayTile s h (BitVec.ofNat 8 t)
    && (t / 16 = h.tile.toNat / 16 || !replayNear s h)

/-- A tile ends its job and starts its reserved one (R261); a replay that waits for it goes ahead of that (R418). -/
def endTile (s : State) (t : Nat) : State :=
  let x := tileOf s t
  let s := notePlace s t x.job
  let s := modTile s t fun x => { freshTile x with job := none, reserve := none, granted := false }
  match waitsReplay s t, x.reserve with
  | some h, r => placeReplay (modTile s t fun y => { y with reserve := r }) h (BitVec.ofNat 8 t)
  | none, some j => startJob s t j
  | none, none => s

/-- A tile's replay has ended: it starts the job that it has reserved (R261, R418). -/
def freeReplay (s : State) (t : Nat) : State :=
  let x := tileOf s t
  if x.job.isSome || replayBusy s t || !tileUp s t then s
  else match x.reserve with
    | some j => startJob (modTile s t fun x => { x with reserve := none }) t j
    | none => s

/-- A tile can issue: it is in service, holds a granted job that has not ended, and nothing freezes it (R142). -/
def canIssue (s : State) (t : Nat) : Bool :=
  let x := tileOf s t
  tileUp s t && !inHold s && x.granted && !x.ended && x.frozen = 0 && x.waitMask.isNone

/-- The active bank holds the job's binding (R168). -/
def bankReady (s : State) (t : Nat) (j : TJob) : Bool :=
  let x := tileOf s t
  let b := if x.actB then x.imB else x.imA
  b.valid && (match bindingOf s j with | some y => holds b y | none => false)

/-! ### Slots -/

/-- The program job of a tile fails its audit (R161, R162): the operations in flight run to their end first, so the writes of transfers land. -/
def auditFail (s : State) (t : Nat) (j : TJob) (e : Entry) (f : AFault) : State :=
  let x := tileOf s t
  endTile (schedStop (progStore s j.st j.seq j.idx (flying x)) j.st j.seq j.idx (faultRegs f t x.bundle x.tcy j.idx j.st (rTag e.bytes))) t

/-- The tile's job with its context, once its bundle has passed the audit; or the state after the failure. -/
def fetchBundle (s : State) (t : Nat) : State × Option (TJob × Entry × Plan × JCtx × Tile) :=
  let x := tileOf s t
  match x.job with
  | none => (s, none)
  | some j =>
    if !canIssue s t then (s, none)
    else match tileCtx s j with
      | none => (s, none)
      | some (e, p, c) =>
        if !bankReady s t j then (s, none)
        else if x.audited then (s, some (j, e, p, c, x))
        else match auditBundle c x with
          | .error f => (auditFail s t j e f, none)
          | .ok y =>
            let y := { y with audited := true }
            (modTile s t fun _ => y, some (j, e, p, c, y))

/-- Slots that issue before another one: the C slot acts last (R150). -/
def slotsBefore : TileSlot → List TileSlot
  | .x => [] | .m => [.x] | .v0 => [.x, .m] | .v1 => [.x, .m, .v0] | .e => [.x, .m, .v0, .v1] | .c => [.x, .m, .v0, .v1, .e]

/-- One slot of a tile's current bundle: the first slot audits the whole bundle (R147); slots take effect in order. -/
def slotRow (s : State) (t : TileNo) (sl : TileSlot) (op : Nat) (f : State → TJob → Entry → Plan → JCtx → Tile → Nat → State) : State :=
  match fetchBundle s t.toNat with
  | (s, none) => s
  | (s, some (j, e, p, c, x)) =>
    let b := c.bun x.bundle
    let w := slotOf b sl
    if slotOp sl w ≠ op || x.issued.contains sl then s
    else if (slotsBefore sl).any fun k => slotOp k (slotOf b k) ≠ 0 && !x.issued.contains k then s
    else f s j e p c x w

/-- The common effect of a slot other than C. -/
def issueSlot (sl : TileSlot) (t : TileNo) (s : State) (_ : TJob) (_ : Entry) (_ : Plan) (c : JCtx) (x : Tile) (w : Nat) : State :=
  modTile s t.toNat fun _ => { doSlot c x sl w with issued := sl :: x.issued }

/-- The C slot of a bundle, END and WAITX apart. -/
def closeRow (t : TileNo) (s : State) (_ : TJob) (_ : Entry) (_ : Plan) (c : JCtx) (x : Tile) (w : Nat) : State :=
  modTile s t.toNat fun _ => closeBundle c x w

/-- NOP (R151) -/
def execNop (t : TileNo) (sl : TileSlot) (s : State) : Res :=
  .next (slotRow s t sl 0 (if sl = .c then closeRow t else issueSlot sl t))
/-- IDLE (R151) -/
def execIdle (t : TileNo) (s : State) : Res := .next (slotRow s t .c 2 (closeRow t))
/-- LOOP (R151) -/
def execLoop (t : TileNo) (s : State) : Res := .next (slotRow s t .c 4 (closeRow t))

/-- END (R165, R261): the job's results reach its command, and the tile goes on to its next job. -/
def execEndProg (t : TileNo) (s : State) : Res :=
  .next (slotRow s t .c 1 fun s j e p c x _ =>
    if s.ser.rebuild then s else
    let s := match x.bad with
      | some a => uncorrStop s j.st j.seq a
      | none => if e.drained.contains j.idx then s else commitJob s j.st j.seq e j.idx (progRes c p x [])
    endTile s t.toNat)

/-- A waiting tile goes on once every named transfer has completed: its tokens retire, its writes have reached the Serai (R157). -/
def tryRetire (s : State) (t : Nat) : State :=
  let x := tileOf s t
  match x.waitMask with
  | none => s
  | some m =>
    if x.toks.all fun y => !bit m.toNat y.1 || y.2.done then
      let (y, w) := retire x m.toNat
      let s := modTile s t fun _ => advance { y with waitMask := none } y.bundle 0
      match x.job with | some j => progStore s j.st j.seq j.idx w | none => s
    else s

/-- WAITX (R151, R157) -/
def execWaitx (t : TileNo) (s : State) : Res :=
  .next (slotRow s t .c 3 fun s _ _ _ _ x w =>
    tryRetire (modTile s t.toNat fun _ => { x with waitMask := some (BitVec.ofNat 16 (bits w 4 16)) }) t.toNat)

/-- The panel of a tile's job. -/
def tilePan (s : State) (j : TJob) : Option Nat := (jobCmd s j).map fun x => jobPan x.1 x.2 j.idx

/-- Memory as a tile's loads read it (R40, R285). -/
def tileMem (s : State) (t : Nat) : Mem :=
  match (tileOf s t).job with | some j => stagedMem s j.st j.seq (tilePan s j) | none => s.mem

/-- The words in error that a tile's loads have met (R294, R295); the first that is uncorrectable stops the command at once (R296). -/
def meetTile (s : State) (t : Nat) : State :=
  let x := tileOf s t
  match x.job with
  | none => s
  | some j =>
    let at_ (w : Nat) : Nat := stagedWord s j.st j.seq (tilePan s j) w
    let s := modTile (meetFor s (x.met.map at_) (x.bad.map fun a => at_ (a / 32) * 32)) t fun x => { x with met := [] }
    match x.bad with | some a => uncorrStop s j.st j.seq a | none => s

/-- TRANSFER_COMPLETE (R157) -/
def execTransferComplete (t : TileNo) (tok : Fin 16) (s : State) : Res :=
  let n := t.toNat
  .next (if (tileOf s n).job.isNone || inHold s then s
    else
      tryRetire (meetTile (modTile s n fun x => if x.toks.any (·.1 = tok.val) then landXfer (tileMem s n) x tok.val else x) n) n)

/-- LDS (R152) -/
def execLds (t : TileNo) (s : State) : Res := .next (slotRow s t .x 1 (issueSlot .x t))
/-- STS (R152) -/
def execSts (t : TileNo) (s : State) : Res := .next (slotRow s t .x 2 (issueSlot .x t))
/-- MMA (R159) -/
def execMma (t : TileNo) (s : State) : Res := .next (slotRow s t .m 1 (issueSlot .m t))
/-- ZAT (R160) -/
def execZat (t : TileNo) (s : State) : Res := .next (slotRow s t .m 2 (issueSlot .m t))
/-- VADD (R156) -/
def execVadd (t : TileNo) (s : State) : Res := .next (slotRow s t .v0 1 (issueSlot .v0 t))
/-- VSUB (R156) -/
def execVsub (t : TileNo) (s : State) : Res := .next (slotRow s t .v0 2 (issueSlot .v0 t))
/-- VMUL (R156) -/
def execVmul (t : TileNo) (s : State) : Res := .next (slotRow s t .v0 3 (issueSlot .v0 t))
/-- VFMA (R156) -/
def execVfma (t : TileNo) (s : State) : Res := .next (slotRow s t .v0 4 (issueSlot .v0 t))
/-- VDIV (R156) -/
def execVdiv (t : TileNo) (s : State) : Res := .next (slotRow s t .v0 5 (issueSlot .v0 t))
/-- VSQRT (R156) -/
def execVsqrt (t : TileNo) (s : State) : Res := .next (slotRow s t .v0 6 (issueSlot .v0 t))
/-- VMIN (R156) -/
def execVmin (t : TileNo) (s : State) : Res := .next (slotRow s t .v0 7 (issueSlot .v0 t))
/-- VMAX (R156) -/
def execVmax (t : TileNo) (s : State) : Res := .next (slotRow s t .v0 8 (issueSlot .v0 t))
/-- VCVT (R156) -/
def execVcvt (t : TileNo) (s : State) : Res := .next (slotRow s t .v0 9 (issueSlot .v0 t))
/-- VLD (R154): in V0 or V1. -/
def execVld (t : TileNo) (sl : TileSlot) (s : State) : Res :=
  .next (if sl = .v0 || sl = .v1 then slotRow s t sl 0x10 (issueSlot sl t) else s)
/-- VST (R154) -/
def execVst (t : TileNo) (sl : TileSlot) (s : State) : Res :=
  .next (if sl = .v0 || sl = .v1 then slotRow s t sl 0x11 (issueSlot sl t) else s)
/-- VMOV (R156) -/
def execVmov (t : TileNo) (sl : TileSlot) (s : State) : Res :=
  .next (if sl = .v0 || sl = .v1 then slotRow s t sl 0x12 (issueSlot sl t) else s)
/-- TMRG (R181) -/
def execTmrg (t : TileNo) (s : State) : Res := .next (slotRow s t .e 2 (issueSlot .e t))

/-- The tile holds its job at a failed check (R142, R418): nothing of the accumulator tile leaves it. After a parity error of the instruction memory
the active bank is loaded again (R170, R413). -/
def holdJob (s : State) (t : TileNo) (j : TJob) (f : TileFault) : State :=
  let s := modTile s t.toNat fun x => { x with frozen := 2 }
  let x := tileOf s t.toNat
  let b := if x.actB then x.imB else x.imA
  let s := if f.det.toNat = 4 then loadBank s t.toNat x.actB b.pid b.gen b.img else s
  { s with ras := { s.ras with held := s.ras.held ++ [{ tile := t, nb := none, job := j, det := f.det.toNat, dev := f.dev }] } }

/-- The deviation of a fault of the residue check (R139, R413, point 0x01); another check's fault is held whatever its words read. -/
def resDev (fault : Option TileFault) : List (Nat × BitVec 192) :=
  match fault with | some f => if f.det = 1 then f.dev.map fun x => (x.1, x.2.setWidth 192) else [] | none => []

/-- The check of a drain fails: a word's residue differs from the one carried beside it, or another check of R413 reported (R139, R418). -/
def checkFails (fault : Option TileFault) (mism : Bool) : Option TileFault :=
  fault.bind fun f => if f.det ≠ 1 || mism then some f else none

/-- A library job of a tile drains (R171, R296): first the words in error that it reads are met. -/
def drainLib (s : State) (t : TileNo) (j : TJob) (e : Entry) (p : Plan) (fault : Option TileFault) : State :=
  if rOpc e.bytes = 0x60 then
    (if e.drained.contains j.idx then endTile s t.toNat
    else match checkFails fault (traceMism s j.st e p j.idx (resDev fault)) with
      | some f => holdJob s t j f
      | none => endTile (traceJob s j.st e p j.idx) t.toNat) else
  let (s, bad) := meetJob s j.st e p j.idx
  match bad with
  | some a => endTile (uncorrStop s j.st j.seq a) t.toNat
  | none =>
    if e.drained.contains j.idx then endTile s t.toNat
    else
      let r := libJob s j.st e p j.idx (resDev fault)
      match checkFails fault r.mism with
      | some f => holdJob s t j f
      | none => endTile (commitJob s j.st j.seq e j.idx r) t.toNat

/-- DRAIN (R139, R171): in a program, one E slot; for a library job, the net effect of the job, whose bundles the spec does not give (log
entry 38). A failed check holds the job; a full outbound queue freezes the tile before the drain. -/
def execDrain (t : TileNo) (fault : Option TileFault) (full : Bool) (s : State) : Res :=
  let n := t.toNat
  let freeze (s : State) : State := modTile s n fun x => { x with frozen := 1 }
  .next (match (tileOf s n).job with
    | none => s
    | some j => match jobCmd s j with
      | none => if canIssue s n && j.ballast then endTile s n else s
      | some (e, p) =>
        if isProgJob e p j.idx then
          slotRow s t .e 1 fun s j e p c x w =>
            let y := faultAcc x w (resDev fault)
            if full then freeze s
            else match checkFails fault (drainMism y w) with
              | some f => holdJob s t j f
              | none => issueSlot .e t s j e p c y w
        else if canIssue s n && bankReady s n j && !s.ser.rebuild then (if full then freeze s else drainLib s t j e p fault)
        else s)

/-- OUTBOUND_QUEUE_FREE (R142) -/
def execOutboundQueueFree (t : TileNo) (s : State) : Res :=
  .next (modTile s t.toNat fun x => if x.frozen = 1 then { x with frozen := 0 } else x)

/-! ### Instruction memory (R166 to R169) -/

/-- IM_LOAD_DONE (R166): the tile's banks then follow its job's binding. -/
def execImLoadDone (t : TileNo) (bankB : Bool) (s : State) : Res :=
  let f (b : Bank) : Bank := if b.loading then { b with loading := false, valid := true } else b
  .next (bindTile (modTile s t.toNat fun x => if bankB then { x with imB := f x.imB } else { x with imA := f x.imA }) t.toNat)

/-- IM_BANK_SWITCH (R168): at a program boundary, to a valid bank whose switch is pending. Where that bank holds another program than the
tile's job is bound to, its banks then follow the binding. -/
def execImBankSwitch (t : TileNo) (s : State) : Res :=
  let n := t.toNat
  let x := tileOf s n
  let other := if x.actB then x.imA else x.imB
  .next (if !x.pendSw || x.bundle ≠ 0 || x.audited || x.tcy ≠ 0 then s
    else if other.valid then bindTile (modTile s n fun x => { x with actB := !x.actB, pendSw := false }) n else s)

/-! ### The shared tile counter (R260 to R264) -/

/-- Untaken indices of a batch. -/
def Batch.left (b : Batch) : Nat := b.back.length + (b.stop - b.next)

/-- Take n indices of a batch: returned ones first (R264), then in increasing order. -/
def Batch.take (b : Batch) (n : Nat) : List Nat × Batch :=
  let k := min n b.back.length
  let m := min (n - k) (b.stop - b.next)
  (b.back.take k ++ (List.range m).map (b.next + ·), { b with back := b.back.drop k, next := b.next + m })

/-- A returned index goes to the front of its batch (R264). -/
def returnJob (s : State) (j : TJob) : State :=
  if j.ballast then s
  else
    let ins (l : List Nat) : List Nat := (j.idx :: l).mergeSort (· ≤ ·)
    let has (l : List Batch) : Bool := l.any fun b => b.st = j.st && b.seq = j.seq
    let put (l : List Batch) : List Batch :=
      if has l then l.map fun b => if b.st = j.st && b.seq = j.seq then { b with back := ins b.back } else b
      else ⟨j.st, j.seq, 0, 0, [j.idx]⟩ :: l
    match cmdOf s j.st j.seq with
    | none => s
    | some _ =>
      if serving (strmOf s j.st) then { s with til := { s.til with srv := put s.til.srv } } else { s with til := { s.til with trn := put s.til.trn } }

/-- The replays that a tile of theirs can no longer run are discarded, and new ones wait for their place (R417, R421). -/
def dropReplays (s : State) (t : Nat) : State :=
  let is (x : Option TileNo) : Bool := match x with | some n => n.toNat = t | none => false
  let gone (h : Held) : Bool := !h.open_ && h.nb.isSome && (is h.nb || is h.sb || (h.tile.toNat = t && h.sb.isNone))
  let free := ((s.ras.held.filter gone).flatMap fun h => h.nb.toList ++ h.sb.toList).filter (·.toNat ≠ t)
  let s := { s with ras := { s.ras with held := s.ras.held.map fun h => if gone h then { h with nb := none, sb := none } else h } }
  free.foldl (fun s n => freeReplay s n.toNat) s

/-- The jobs of a tile return to the counter (R264); a held job stays with its replays (R417); the tile's grants stay. -/
def unloadTile (s : State) (t : Nat) : State :=
  let s := dropReplays s t
  let x := tileOf s t
  let s := match x.job with
    | some j => if s.ras.held.any fun h => h.tile.toNat = t && h.job = j then s else returnJob s j
    | none => s
  let s := match x.reserve with | some j => returnJob s j | none => s
  modTile s t fun x => { freshTile x with job := none, reserve := none, granted := false }

/-- A tile leaves service: its jobs return to the counter (R264); the governor releases its grant at the slope (R497). -/
def clearTile (s : State) (t : Nat) : State :=
  let s := unloadTile s t
  { s with pwr := { s.pwr with bal := s.pwr.bal.filter (·.1.toNat ≠ t) } }

/-- A tile has no running job: one that runs a ballast job takes a command's job at the end of it (R261, R493). -/
def idleTile (x : Tile) : Bool := x.job.isNone

/-- Tiles of cluster c that take jobs: in service, and with no replay to run (R418). -/
def takers (s : State) (c : Nat) : List Nat := (tilesOf c).filter fun t => tileUp s t && !replayBusy s t

/-- Whether cluster c asks for idle tiles, and whether it asks for reserves (R261). -/
def asksIdle (s : State) (c : Nat) : Bool := (takers s c).any fun t => idleTile (tileOf s t)
def asksReserve (s : State) (c : Nat) : Bool := !asksIdle s c && (takers s c).any fun t => (tileOf s t).reserve.isNone

/-- The counter's next cluster in round-robin order (R261). -/
def nextCluster (s : State) : Option Nat :=
  let order := (List.range 16).map fun i => (s.til.lastClu + 1 + i) % 16
  match order.find? (asksIdle s) with | some c => some c | none => order.find? (asksReserve s)

/-- The first batch with an untaken index: Serving, then Training (R260). -/
def headBatch (s : State) : Option (Bool × Batch) :=
  match s.til.srv.find? fun b => 0 < b.left with
  | some b => some (true, b)
  | none => (s.til.trn.find? fun b => 0 < b.left).map fun b => (false, b)

/-- Replace a batch. -/
def putBatch (s : State) (srv : Bool) (b : Batch) : State :=
  let f (l : List Batch) : List Batch := l.map fun x => if x.st = b.st && x.seq = b.seq then b else x
  if srv then { s with til := { s.til with srv := f s.til.srv } } else { s with til := { s.til with trn := f s.til.trn } }

/-- Within a cluster, a reserved job whose batch has no untaken index moves to an idle tile (R262). -/
def moveReserves (s : State) (c : Nat) : State :=
  (takers s c).foldl (fun s t =>
    if !idleTile (tileOf s t) then s
    else
      let left (j : TJob) : Bool := (s.til.srv ++ s.til.trn).any fun b => b.st = j.st && b.seq = j.seq && 0 < b.left
      match (takers s c).findSome? fun u => match (tileOf s u).reserve with | some j => if left j then none else some (u, j) | none => none with
      | some (u, j) => startJob (modTile s u fun x => { x with reserve := none }) t j
      | none => s) s

/-- A cluster takes a run of indices (R261), or ballast jobs while no batch has an index (R260, R493). -/
def takeRun (s : State) (c : Nat) : State :=
  match headBatch s with
  | none =>
    (takers s c).foldl (fun s t =>
      if (tileOf s t).job.isNone && s.pwr.bal.any (·.1.toNat = t) then startJob s t { st := 0, seq := 0, idx := 0, ballast := true } else s) s
  | some (srv, b) =>
    let idle := (takers s c).filter fun t => idleTile (tileOf s t)
    let ts := if idle ≠ [] then idle else (takers s c).filter fun t => (tileOf s t).reserve.isNone
    let (ids, b') := b.take (min 10 ts.length)
    let s := putBatch { s with til := { s.til with lastClu := c } } srv b'
    (ts.zip ids).foldl (fun s x =>
      let j : TJob := { st := b.st, seq := b.seq, idx := x.2 }
      if idle ≠ [] then startJob s x.1 j
      else modTile s x.1 fun t => { t with reserve := some j }) s

/-- A warm reset waits for p_ref to come down (R497); one that waits for a handover does not yet (R513). -/
def warmDefers (s : State) : Bool := s.cfg.warmWait && !s.cfg.handover

/-- TILE_TAKE (R260 to R262): the cluster's port moves its reserved jobs; the cluster whose turn it is takes. No tile takes a job while p_ref comes down
for a warm reset (R497). -/
def execTileTake (c : Fin 16) (s : State) : Res :=
  .next (if !consuming s || warmDefers s then s
    else
      let s := moveReserves s c.val
      if headBatch s = none then takeRun s c.val
      else if nextCluster s = some c.val then takeRun s c.val else s)

end Sys2Proof.Machine
end

