-- ==== Sys2Proof/Machine/Link.lean ====
section
/-! DEFINITION. The ports of Scezer Link (R339 to R350, R384) and the receiving end of its transactions (R354 to R357): flits, lanes,
retrains, windows and kept answers. -/

namespace Sys2Proof.Machine

/-! ### Ports going up and down -/

/-- No port is up. -/
def noPort (s : State) : Bool := portMask s (·.st = 2) = 0

/-- What follows a change of a port (R356, R458): HELLO to every known node, and the moment the last port went down. -/
def portsChanged (s : State) (before : Nat) : State :=
  if portMask s (·.st = 2) = before then s
  else helloAll { s with lnk := { s.lnk with downAt := if noPort s then some s.clock else none } }

/-- Change a port, with what follows where it goes up or down. -/
def movePort (s : State) (p : Nat) (f : Port → Port) : State := portsChanged (modPort s p f) (portMask s (·.st = 2))

/-- The lane map at link-up (R340, R342): logical lane l on λl, the excluded lane's place taken by the spare; none where two lanes are
excluded. -/
def upMap (bad : BitVec 9) : Option (List Nat) :=
  let ls := (List.range 9).filter fun l => bit bad.toNat l
  match ls with
  | [] => some (List.range 8)
  | [x] => some ((List.range 8).map fun l => if l = x then 8 else l)
  | _ => none

/-- A port leaves the link: its replay buffer, credits and assemblies end (R342, R384), and its lanes lie as at link-up, in generation 0 (R340). -/
def Port.down (q : Port) (st cause : Nat) : Port :=
  { q with st := st, cause := cause, cv := [0, 0, 0, 0], replay := [], waitq := [], asm := [], pmap := none, fails := 0, naks := 0,
           nakTx := 0, gap := false, map := (upMap q.bad).getD (List.range 8), gen := 0 }

/-- Take a port down. -/
def portDown (s : State) (p st cause : Nat) : State := movePort s p fun q => q.down st cause

/-- A retrain starts (R347). -/
def retrain (s : State) (p : Nat) : State :=
  movePort s p fun q => { q with st := 1, retrains := sat 0xFFFF (q.retrains + 1), naks := 0, nakTx := 0 }

/-- A port may train: it is enabled, its engine is in service, its laser is on and no overpower blanks it (R50, R430, R501). -/
def portLit (s : State) (p : Nat) : Bool :=
  bit s.ras.engines.toNat p && (if p < 4 then s.ras.io0 else s.ras.io1) && !bit s.pwr.blank.toNat p && (s.lm0.ok || s.lm1.ok)

/-- A port begins to train from scratch. -/
def startTraining (s : State) (p : Nat) : State :=
  if portLit s p && !(portOf s p).dis then movePort s p fun q => q.down 1 q.cause else s

/-- The device's link-up flit (R350): node, domain, port and its credits; the payload's layout is not stated. -/
def sendLinkUp (s : State) (p : Nat) : State :=
  sendCtl s p 5 0 (Config.layout 0 [s.cfg.conf.node.toNat, s.cfg.conf.domain.toNat, p, 128, 512, 512, 512])

/-! ### Received flits (R343 to R349) -/

/-- The CRC of a flit holds (R344). -/
def crcOk (l : List Byte) : Bool := crc64 (slice l 0 632) = leNat (slice l 632 8)

/-- Resend the replay buffer from a flit on (R346). -/
def resend (s : State) (p n : Nat) : State :=
  let q := portOf s p
  let l := q.replay.dropWhile fun e => e.1 ≠ n
  l.foldl (fun s e =>
    let q := portOf s p
    let vc := e.2.1 % 4
    wire s p
      (mkFlit (flitHdr 1 vc (bit e.2.1 2) (bit e.2.1 3) e.1 q.aseq vc (nth q.freed vc)) e.2.2)) s

/-- Send a nak that names the flit expected (R346); the eighth in a row that names it retrains the port (R347). -/
def sendNak (s : State) (p : Nat) : State :=
  let s := sendCtl (modPort s p fun q => { q with gap := true, nakTx := q.nakTx + 1 }) p 3 (portOf s p).rxSeq []
  if 8 ≤ (portOf s p).nakTx then retrain s p else s

/-- The codeword has more symbol errors than the decoder corrects (R343). -/
def cwBad (f : RxFlit) : Bool := 15 < f.errs.eraseDups.length

/-- The symbols that the decoder corrects (R343). -/
def cwFixed (f : RxFlit) : Nat := if cwBad f then 0 else f.errs.eraseDups.length

/-- A detection at the wavelength lanes of a port (R413, R415): the event names the port and the lane, 15 where none is known (log entry 124). -/
def noteLane (s : State) (p lane : Nat) : State := raise s 0x18 3 0 0 (16 * p + lane)

/-- A flit arrives: symbols corrected, codewords and CRCs that fail; a failure is an event and is answered with a nak where data flits flow. Answers
whether the flit is good. -/
def rxFlit (s : State) (p : Nat) (f : RxFlit) : State × Bool :=
  let s := modPort s p fun q => { q with fec := sat (2 ^ 64 - 1) (q.fec + cwFixed f) }
  let nak (s : State) : State := if (portOf s p).st = 2 then sendNak s p else s
  if cwBad f then (nak (noteLane (modPort s p fun q => { q with ucw := sat 0xFFFFFFFF (q.ucw + 1) }) p 15), false)
  else if !crcOk f.bytes then (nak (noteLane (modPort s p fun q => { q with crc := sat 0xFFFFFFFF (q.crc + 1) }) p 15), false)
  else (s, true)

/-- The acknowledgement and the credits that every flit carries (R346, R348). -/
def rxHeader (s : State) (p : Nat) (l : List Byte) : State :=
  let a := flitField l 20 12
  let cvc := flitField l 32 2
  pumpPort (modPort s p fun q =>
    { q with replay := q.replay.filter (fun e => 2048 ≤ (a + 4096 - e.1) % 4096), ack := q.ack.set cvc (flitField l 34 12) }) p

/-- A port takes flits of its link. -/
def linked (s : State) (p : Nat) : Bool := s.pwr.phase = .on && (portOf s p).st = 2

/-- DATA_FLIT (R346, R349): in order it is moved into the Serai, to a slice that the spec does not name (R304, log entry 46), and freed; a gap is answered with a nak. A finished transaction is left
in the inbox with its port. -/
def takeData (s : State) (p : Nat) (f : RxFlit) : State :=
  if !linked s p then s
  else
    let (s, ok) := rxFlit s p f
    if !ok then s
    else
      let s := rxHeader s p f.bytes
      let q := portOf s p
      let d := (flitField f.bytes 8 12 + 4096 - q.rxSeq) % 4096
      if 2048 ≤ d then s
      else if d ≠ 0 then (if q.gap then s else sendNak s p)
      else
        let vc := flitField f.bytes 4 2
        let pay := slice f.bytes 8 624
        let acc := if bit (flitField f.bytes 0 8) 6 then pay else tget q.asm vc [] ++ pay
        let fin := bit (flitField f.bytes 0 8) 7
        let s := modPort s p fun q =>
          { q with rxSeq := (q.rxSeq + 1) % 4096, gap := false, nakTx := 0, rx := sat (2 ^ 64 - 1) (q.rx + 1), freed := bump4 q.freed vc 1,
                   asm := tput q.asm vc (if fin then [] else acc) [] }
        let s := addSome s 3 pay.length
        if fin then { s with lnk := { s.lnk with inbox := s.lnk.inbox ++ [(p, acc.take (fieldAt acc 0 16 16))] } } else s

/-- NAK_FLIT (R346, R347): resend from the named flit; the eighth in a row that names it retrains the port. -/
def takeNak (s : State) (p : Nat) (f : RxFlit) : State :=
  if !linked s p then s
  else
    let (s, ok) := rxFlit s p f
    if !ok then s
    else
      let n := flitField f.bytes 8 12
      let s := rxHeader s p f.bytes
      let s := modPort s p fun q =>
        { q with replay := q.replay.dropWhile (fun e => e.1 ≠ n && 2048 ≤ (e.1 + 4096 - n) % 4096),
                 naks := if q.nakSeq = n && q.naks ≠ 0 then q.naks + 1 else 1, nakSeq := n }
      if 8 ≤ (portOf s p).naks then retrain s p
      else if (portOf s p).replay.any (·.1 = n) then resend (modPort s p fun q => { q with replays := sat 0xFFFFFFFF (q.replays + 1) }) p n
      else s

/-- An ack or idle flit: its header only. -/
def takeCtl (s : State) (p : Nat) (f : RxFlit) : State :=
  if !linked s p then s else let (s, ok) := rxFlit s p f; if ok then rxHeader s p f.bytes else s

/-- DATA_FLIT (R346) -/
def execDataFlit (p : Fin 8) (f : RxFlit) (s : State) : Res := .next (takeData s p f)
/-- ACK_FLIT (R346) -/
def execAckFlit (p : Fin 8) (f : RxFlit) (s : State) : Res := .next (takeCtl s p f)
/-- NAK_FLIT (R346) -/
def execNakFlit (p : Fin 8) (f : RxFlit) (s : State) : Res := .next (takeNak s p f)
/-- IDLE_FLIT (R345) -/
def execIdleFlit (p : Fin 8) (f : RxFlit) (s : State) : Res := .next (takeCtl s p f)

/-- ACK_INTERVAL (R346): a port with no data flit to send acknowledges. -/
def execAckInterval (p : Fin 8) (s : State) : Res := .next (if linked s p then sendCtl s p 2 0 [] else s)

/-! ### Lanes (R340 to R342) -/

/-- The port is linked: up, or in a retrain of an established link (R347). -/
def established (q : Port) : Bool := q.st = 2 || (q.st = 1 && q.cv ≠ [0, 0, 0, 0])

/-- A lane fails (R341, R342) in codeword c: its flit goes in codeword c + 1, the port's next, and the spare takes its place at c + 512, or the port goes
down. The excluded lane's self-test runs (R423). A failed spare that carries nothing, and a lane
of a port without a link, are only excluded. Each is an event, and a replacement is kept in the flash (R415, R416). -/
def failLane (s : State) (p lane : Nat) : State :=
  let q := portOf s p
  let mark (q : Port) : Port :=
    { q with bad := q.bad ||| BitVec.ofNat 9 (1 <<< lane), laneOk := q.laneOk &&& ~~~(BitVec.ofNat 9 (1 <<< lane)) }
  let map := match q.pmap with | some m => m.1 | none => q.map
  if !established q || !map.contains lane then noteLane (modPort s p mark) p lane
  else match (List.range 9).find? fun l => !map.contains l && !q.map.contains l && bit q.laneOk.toNat l with
    | some sp =>
      let m := map.map fun l => if l = lane then sp else l
      let g := (q.gen.toNat + 1) % 16
      let eff := (q.cwCnt + 511) % 4096
      let s := selfTest (raiseKept (modPort s p fun q => { mark q with pmap := some (m, g, eff) }) 0x18 3 0 6 (16 * p + lane)) 0x18 3 (16 * p + lane)
      sendCtl s p 4 0 (Config.layout 1 (m ++ [g, eff]))
    | none => portDown (noteLane (modPort s p mark) p lane) p 0 1

/-- LANE_FAIL (R341) -/
def execLaneFail (p : Fin 8) (lane : Fin 9) (s : State) : Res := .next (if s.pwr.phase = .on then failLane s p lane else s)

/-- LANE_MAP_SWITCH (R341): codeword c + 512. -/
def execLaneMapSwitch (p : Fin 8) (s : State) : Res :=
  .next (match (portOf s p).pmap with
    | some (m, g, _) => if s.pwr.phase = .on && established (portOf s p) then modPort s p fun q =>
        { q with map := m, gen := BitVec.ofNat 4 g, pmap := none, spares := sat 0xFF (q.spares + 1) } else s
    | none => s)

/-- LANE_MAP_FLIT (R341): the switch's map, unless the device's own map, pending or already switched to, has its generation: then the lane that it
replaces is a further failure. -/
def takeMap (s : State) (p : Nat) (f : RxFlit) (map : List Nat) (gen eff : Nat) : State :=
  if !linked s p then s
  else
    let (s, ok) := rxFlit s p f
    if !ok then s
    else
      let s := rxHeader s p f.bytes
      let q := portOf s p
      match q.pmap with
      | some (m, g, _) =>
        if g = gen then
          match q.map.find? fun l => !map.contains l && m.contains l with
          | some l => failLane s p l
          | none => s
        else modPort s p fun q => { q with pmap := some (map, gen, eff) }
      | none =>
        let gone := q.map.filter fun l => !map.contains l
        if gen = q.gen.toNat then (match gone.head? with | some l => failLane s p l | none => s) else
        let mask := BitVec.ofNat 9 ((gone.map fun l => 2 ^ l).sum)
        modPort s p fun q => { q with pmap := some (map, gen, eff), bad := q.bad ||| mask, laneOk := q.laneOk &&& ~~~mask }

/-- LANE_MAP_FLIT (R341) -/
def execLaneMapFlit (p : Fin 8) (f : RxFlit) (map : List (Fin 9)) (gen : BitVec 4) (eff : BitVec 12) (s : State) : Res :=
  .next (takeMap s p f (map.map (·.val)) gen.toNat eff.toNat)

/-! ### Link-up and retrains (R347, R350) -/

/-- CODEWORD_LOCK_LOSS (R347) -/
def execCodewordLockLoss (p : Fin 8) (s : State) : Res := .next (if linked s p then retrain s p else s)

/-- PORT_RETRAIN_DONE (R347, R350): a failed retrain is followed by another, which counts too (R384); after a retrain of a linked port the replay buffer is resent, a new port sends its link-up flit; the
third failure in a row takes the port down. -/
def execPortRetrainDone (p : Fin 8) (ok : Bool) (s : State) : Res :=
  let q := portOf s p
  .next (if s.pwr.phase ≠ .on || q.st ≠ 1 then s
    else if !ok then
      (if 2 ≤ q.fails then portDown s p 0 2 else modPort s p fun q => { q with fails := q.fails + 1, retrains := if q.cv = [0, 0, 0, 0] then q.retrains else sat 0xFFFF (q.retrains + 1) })
    else if q.cv = [0, 0, 0, 0] then sendLinkUp (modPort s p fun q => { q with fails := 0 }) p
    else
      let s := movePort s p fun q => { q with st := 2, fails := 0, gap := false }
      match (portOf s p).replay.head? with | some e => resend s p e.1 | none => pumpPort s p)

/-- LINK_UP_FLIT (R350): plane and domain decide. -/
def takeLinkUp (s : State) (p : Nat) (f : RxFlit) (plane swPort domain : Nat) (cv : List Nat) : State :=
  if s.pwr.phase ≠ .on || (portOf s p).st ≠ 1 || (portOf s p).cv ≠ [0, 0, 0, 0] then s
  else
    let (s, ok) := rxFlit s p f
    if !ok then s
    else
      let s := modPort s p fun q => { q with plane := BitVec.ofNat 4 plane, swPort := swPort }
      if plane ≠ p then portDown s p 3 3
      else if domain ≠ s.cfg.conf.domain.toNat then portDown s p 3 4
      else match upMap (portOf s p).bad with
        | none => portDown s p 0 1
        | some m =>
          let s := movePort s p fun q =>
            { q with st := 2, map := m, laneOk := ~~~q.bad, gen := 0, txSeq := 0, rxSeq := 0, sent := [0, 0, 0, 0],
                     ack := [0, 0, 0, 0], cv := [nth cv 0, nth cv 1, nth cv 2, nth cv 3], freed := [0, 0, 0, 0] }
          pumpPort s p

/-- LINK_UP_FLIT (R350) -/
def execLinkUpFlit (p : Fin 8) (f : RxFlit) (plane : BitVec 4) (swPort : Nat) (domain : BitVec 16) (cv : List Nat) (s : State) : Res :=
  .next (takeLinkUp s p f plane.toNat swPort domain.toNat cv)

/-- LINK_UP_RETRY (R350): a refused port tries again each second; a training one sends its flit again. -/
def execLinkUpRetry (p : Fin 8) (s : State) : Res :=
  .next (if s.pwr.phase ≠ .on then s
    else match (portOf s p).st with
      | 1 => sendLinkUp s p
      | 3 => if portLit s p then sendLinkUp (modPort s p fun q => { q with st := 1 }) p else s
      | _ => s)

/-- A write of dis (R384). -/
def setDis (s : State) (p : Nat) (d : Bool) : State :=
  if d then portDown (modPort s p fun q => { q with dis := true }) p 4 5
  else
    let was := (portOf s p).dis
    let s := modPort s p fun q => { q with dis := false }
    if was then (if portLit s p then startTraining s p else movePort s p fun q => q.down 0 q.cause) else s

/-- A write of retrain (R384). -/
def askRetrain (s : State) (p : Nat) : State :=
  if (portOf s p).dis || !portLit s p then s else retrain s p

/-- A write of lane_reset (R342, R384): failed lanes are usable at the next link-up. -/
def resetLanes (s : State) (p : Nat) : State := modPort s p fun q => { q with bad := 0 }

/-- PORT_DISABLE (R384) -/
def execPortDisable (sec : Bool) (dis : Bool) (s : State) : Res := .next (hostRow s sec fun s => setDis s s.selH.port.toNat dis)
/-- PORT_RETRAIN (R384) -/
def execPortRetrain (sec : Bool) (s : State) : Res := .next (hostRow s sec fun s => askRetrain s s.selH.port.toNat)
/-- LANE_RESET (R342) -/
def execLaneReset (sec : Bool) (s : State) : Res := .next (hostRow s sec fun s => resetLanes s s.selH.port.toNat)

/-! ### Receiving a transaction (R355 to R357) -/

/-- A device answers and executes transactions in SERVICE and MAINTENANCE (R357). -/
def answers (s : State) : Bool := s.pwr.phase = .on && consuming s

/-- The highest end-to-end number of a window. -/
def newest (l : List (BitVec 32 × Txn)) : Option (BitVec 32) :=
  match l with
  | [] => none
  | x :: r => some (r.foldl (fun h y => if (y.1 - h).toNat < 2 ^ 31 then y.1 else h) x.1)

/-- The answer to a transaction (R354, R355), not yet numbered: PUSH_RESP, READ_DATA or ACK. -/
def mkAnswer (s : State) (t : Txn) (status : Nat) (body : List Byte) : Txn :=
  let (ty, vc) := if t.ttype = 0x02 then (0x03, 2) else if t.ttype = 0x05 then (0x06, 0) else (0x04, 0)
  mkTxn s ty vc t.src 0 (BitVec.ofNat 64 t.eseq.toNat) (BitVec.ofNat 64 status) body

/-- Number an answer and send it (R355). -/
def answer (s : State) (t : Txn) : State := let (s, t) := numbered s t; sendAnswer s t

/-- Number an answer, keep it for the last 1,024 numbers of its source (R355), and send it. -/
def answerKept (s : State) (n : Nat) (eseq : BitVec 32) (t : Txn) : State :=
  let (s, t) := numbered s t
  let s := modPeer s n fun p =>
    let l := p.answers ++ [(eseq, t)]
    match newest l with
    | some h => { p with answers := l.filter fun x => (h - x.1).toNat < 1024 }
    | none => { p with answers := l }
  sendAnswer s t

/-- The peer may have its transactions executed (R356): its HELLO came, its domain and incarnation agree. -/
def peerOk (s : State) (t : Txn) : Bool :=
  let p := peerOf s t.src.toNat
  p.known && p.domain = s.cfg.conf.domain && p.inc = t.inc

/-- A transaction from a node has arrived on a plane (R349, R455): it leaves the inbox. -/
def heard (s : State) (t : Txn) : State :=
  let s := modPeer s t.src.toNat fun p => { p with heard := s.clock }
  { s with lnk := { s.lnk with inbox := s.lnk.inbox.erase (t.plane.val, txnBytes t) } }

/-- Execute a transaction once and answer it (R355, R356). `f` gives the state, the status and the body of the answer, or no answer. While retained state
is rebuilt (R42, R278), WRITE and READ only are executed: another one stays without an answer, and its sender sends it again. -/
def receive (s : State) (t : Txn) (f : State → State × Option (Nat × List Byte)) : State :=
  if !answers s then s
  else
    let s := heard s t
    let n := t.src.toNat
    if !peerOk s t then answer s (mkAnswer s t 0x0607 (if t.ttype = 5 then natLe 8 (strmOf s (bits t.a.toNat 0 16)).nseq.toNat else []))
    else
      let l := (peerOf s n).answers
      match l.find? (·.1 = t.eseq) with
      | some a => sendAnswer s a.2
      | none =>
        let old := match newest l with | some h => 1024 ≤ (h - t.eseq).toNat && (h - t.eseq).toNat < 2 ^ 31 | none => false
        if old then answer s (mkTxn s 4 0 t.src 0 (BitVec.ofNat 64 t.eseq.toNat) 0 [])
        else if s.ser.rebuild && t.ttype ≠ 1 && t.ttype ≠ 2 then s
        else match f s with
          | (s, none) => s
          | (s, some (st, b)) => answerKept s n t.eseq (mkAnswer s t st b)

/-- Execute a transaction that is answered with ACK of a status. -/
def receiveAck (s : State) (t : Txn) (f : State → State × Nat) : State :=
  receive s t fun s => let (s, st) := f s; (s, some (st, []))

/-! ### Plain targets (R212, R226, R357) -/

/-- Whether a remote range may be reached (R275, R357, R465). -/
def remoteOpen (c : Conf) (a n : Nat) : Bool := a + n ≤ 2 ^ 44 && openRange c a n

/-- A WRITE at its target (R357, R67): exactly its bits. -/
def doWrite (s : State) (t : Txn) : State × Nat :=
  let a := t.a.toNat % 2 ^ 44
  let fb := bits t.b.toNat 0 3
  let w := bits t.b.toNat 3 16 + 1
  if !remoteOpen s.cfg.conf a (cdiv (fb + w) 8) then (s, 0x0602)
  else (storeBits (tally s 3 true a (cdiv (fb + w) 8)) (8 * a + fb) w (leNat t.body >>> fb), 0)

/-- A READ at its target (R295, R357). -/
def doRead (s : State) (t : Txn) : State × Option (Nat × List Byte) :=
  let a := t.a.toNat % 2 ^ 44
  let n := bits t.b.toNat 0 13 + 1
  if !remoteOpen s.cfg.conf a n then (s, some (0x0602, []))
  else
    let (s, b) := fetch (tally s 3 false a n) a n
    if b.isSome then (s, some (0x0603, [])) else (s, some (0, rd s.mem a n))

/-- The extension that a PUSH carries, none where its address or its length fails (R192). -/
def pushExt (c : Conf) (r ext : List Byte) : Option (List Byte) :=
  let n := 64 * extNeed (rOpc r) (rSub r)
  let a := rExt r % 2 ^ 44
  if rExtLen r * 64 = n && ext.length = n && (n = 0 || (a % 64 = 0 && oneRegion c a n)) then some ext else none

/-- A PUSH at its target (R212 to R218): the record carried is decided at once; a stream that cannot take it now leaves the PUSH
unanswered, and its sender sends it again (R355). A record that becomes pending is answered with the escort's decision. -/
def doPush (s : State) (t : Txn) : State × Option (Nat × List Byte) :=
  let st := bits t.a.toNat 0 16
  let x := strmOf s st
  let ans (s : State) (f : Nat) : State × Option (Nat × List Byte) := (s, some (f, natLe 8 (strmOf s st).nseq.toNat))
  let r := slice t.body 0 256
  let ext := t.body.drop 256
  if !bit x.cfg.toNat 2 || bits x.cfg.toNat 32 16 ≠ t.src.toNat then ans s 0x0101
  else if 2 ^ bits x.cfg.toNat 12 4 ≤ jUsed x || hasPending x || s.esc.adopting || !ready s
      || x.journal.any (fun e => e.push = some (t.src, t.eseq)) then (s, none)
  else
    let i := BitVec.ofNat 32 t.b.toNat
    let s := modStrm s st fun x => if x.opened then { x with pi := i, ci := i } else x
    match takeRec s st r (pushExt s.cfg.conf r ext) true with
    | (s, .accept) => if hasPending (strmOf s st) then
        (modStrm s st fun x => { x with journal := x.journal.map fun e => if e.st = .pending && !e.wdWait then { e with push := some (t.src, t.eseq) } else e }, none)
      else ans s 0
    | (s, .duplicate) => ans s 0
    | (s, .refuse f _ _) => ans s f.toNat

/-- WRITE (R357) -/
def execWrite (t : Txn) (s : State) : Res := .next (receiveAck s t fun s => doWrite s t)
/-- READ (R357) -/
def execRead (t : Txn) (s : State) : Res := .next (receive s t fun s => doRead s t)
/-- PUSH (R212) -/
def execPush (t : Txn) (s : State) : Res := .next (receive s t fun s => doPush s t)
/-- SIGNAL at its target (R226) -/
def execRemoteSignal (t : Txn) (s : State) : Res :=
  .next (receiveAck s t fun s => (syncUpdate s (bits t.a.toNat 0 14) (bit t.a.toNat 14) t.b, 0))

/-- TRANSACTION_DISCARD (R354): a transaction of an undefined type is discarded and counted. -/
def execTransactionDiscard (t : Txn) (s : State) : Res :=
  let ty := t.ttype.toNat
  let known := (1 ≤ ty && ty ≤ 8) || ty = 0x10 || (0x20 ≤ ty && ty ≤ 0x25) || (0x30 ≤ ty && ty ≤ 0x3B)
  .next (if !answers s || known then s
    else let s := heard s t; { s with lnk := { s.lnk with discard := sat 0xFFFF (s.lnk.discard + 1) } })

/-! ### Answers received (R355, R356) -/

/-- An answer is taken unless it carries a stale incarnation (R356), or retained state is being rebuilt (R42): its transaction is then sent again. -/
def answerOk (s : State) (t : Txn) : Bool :=
  let p := peerOf s t.src.toNat
  s.pwr.phase = .on && s.cfg.st ≠ .powerup && !s.ser.rebuild && !(p.known && t.inc < p.inc)

/-- The unanswered transaction to a node with a number. -/
def sentTo (s : State) (n : NodeId) (e : BitVec 32) : Option Sent := s.lnk.sent.find? fun x => x.txn.dst = n && x.txn.eseq = e

/-- A transaction is answered or given up: the next one that waited goes out (R355). -/
def dropSent (s : State) (x : Sent) : State :=
  let l := unanswered s x.txn.dst
  let i := l.findIdx (· = x)
  let s := { s with lnk := { s.lnk with sent := s.lnk.sent.erase x } }
  match l[1024]? with
  | some w => if i < 1024 then emit s w.txn w.txn.plane.val else s
  | none => s

/-- Send a transaction for a command: its completion waits for the answer. -/
def sendFor (s : State) (st : Nat) (q : W64) (pref ty vc : Nat) (dst : NodeId) (a b : W64) (body : List Byte) : State :=
  let n := (peerOf s dst.toNat).next
  let s := sendOn s pref ty vc dst a b body (.cmd st q)
  modCmd s st q fun e => { e with waits := e.waits ++ [(dst, n)] }

/-! ### Groups and collectives in flight (R360, R382, R386) -/

/-- A group's entry. -/
def groupOf (s : State) (i : Nat) : Group := tget s.lnk.groups i {}

/-- Change a group's entry. -/
def modGroup (s : State) (i : Nat) (f : Group → Group) : State :=
  { s with lnk := { s.lnk with groups := tmod s.lnk.groups i {} f } }

/-- A command's collective. -/
def collOf (s : State) (st : Nat) (q : W64) : Option Coll := s.lnk.colls.find? fun c => c.st = st && c.seq = q

/-- Change a command's collective. -/
def modColl (s : State) (st : Nat) (q : W64) (f : Coll → Coll) : State :=
  { s with lnk := { s.lnk with colls := s.lnk.colls.map fun c => if c.st = st && c.seq = q then f c else c } }

/-- Merge a gap: the larger wins, and on a tie the lower rank (R382). -/
def Coll.merge (c : Coll) (rank gap : Nat) : Coll :=
  if c.slowGap < gap || (c.slowGap = gap && rank < c.slowRank) then { c with slowRank := rank, slowGap := gap } else c

/-- A collective ends: the straggler registers (R382, R386), of which one that failed leaves the largest gap unknown (log entry 112). A COMBINE
frees the bookkeeping of its DISPATCH (R380). -/
def leaveColl (s : State) (c : Coll) (done : Bool) : State :=
  let disp := if c.opc = 0x24 then s.lnk.disp.filter (·.1 ≠ c.group) else s.lnk.disp
  let s := { s with lnk := { s.lnk with disp := disp, colls := s.lnk.colls.filter fun x => !(x.st = c.st && x.seq = c.seq) } }
  modGroup s c.group fun g =>
    let g := { g with lastEnd := some s.clock, waitUs := (g.waitUs + (s.clock - c.startUs)) % 2 ^ 64, ownGap := c.gap }
    if done then { g with slowRank := c.slowRank, slowGap := c.slowGap,
                          selfSlow := if c.slowRank = g.rank then sat 0xFFFFFFFF (g.selfSlow + 1) else g.selfSlow } else g

/-- A transaction sent for a command fails it (R355, R383): its exchanges end. -/
def failCmd (s : State) (st : Nat) (q : W64) (f : Nat) : State :=
  let s := match collOf s st q with | some c => leaveColl s c false | none => s
  modCmd s st q fun e => { e.finish (BitVec.ofNat 16 f) with waits := [], log := [] }

/-- The bytes that the READs of a move brought. -/
def readMem (e : Entry) : Mem :=
  e.log.foldl (fun m x => wrRaw m (leNat (x.2.take 8)) (x.2.drop 8)) { cells := [], err := [] }

/-- Elements that arrive over Scezer Link are stored (R304). -/
def storeLink (s : State) (l : List (Nat × Nat × Nat)) : State := storeAll (tallyBits s 3 true l) l

/-- An answer for a command: it waits for one answer less; the last READ_DATA of a move lets it write (R202, R203). -/
def cmdAnswer (s : State) (st : Nat) (q : W64) (x : Sent) (f : Nat) (body : List Byte) : State :=
  match cmdOf s st q with
  | none => s
  | some e =>
    let k := (x.txn.dst, x.txn.eseq)
    if !e.waits.contains k then s
    else if f ≠ 0 then failCmd s st q f
    else
      let s := modCmd s st q fun e => { e with waits := e.waits.filter (· ≠ k), log := e.log.map fun l =>
        if x.txn.ttype = 2 && l.1 = x.txn.eseq.toNat then (l.1, l.2 ++ body) else l }
      match cmdOf s st q with
      | some e => if x.txn.ttype = 2 && e.waits = [] && !e.ran && e.stop.isNone then finishMove s st q e (readMem e) else s
      | none => s

/-- esc_ok of every open Escorted stream follows the escort's state (R449, R454). -/
def escRefresh (s : State) : State :=
  let ok := escReady s
  let l := s.cmd.streams.map fun x => if escorted x.2 && x.2.opened then (x.1, { x.2 with escOk := ok }) else x
  { s with cmd := { s.cmd with streams := l } }

/-- The place in the journal of the pending record of a number, and its entry. -/
def pendingAt (s : State) (st : Nat) (q : W64) : Option (Nat × Entry) :=
  let l := (strmOf s st).journal
  match l.findIdx? fun e => e.st = .pending && e.seq = q && !e.wdWait with
  | some i => (l[i]?).map fun e => (i, e)
  | none => none

/-- The response to the PUSH that brought a pending record (R212). -/
def answerPush (s : State) (st : Nat) (e : Entry) (f : Nat) : State :=
  match e.push with
  | none => s
  | some (n, x) =>
    answerKept s n.toNat x (mkTxn s 6 0 n 0 (BitVec.ofNat 64 x.toNat) (BitVec.ofNat 64 f) (natLe 8 (strmOf s st).nseq.toNat))

/-- The pending record is accepted (R216): what an acceptance captures is captured now (R256, R376, R432). -/
def acceptPending (s : State) (st : Nat) (q : W64) : State :=
  match pendingAt s st q with
  | some (i, e) =>
    answerPush (bumpSeq (modEntry s st i fun e => { captured s st e with st := .accepted, push := none }) st) st e 0
  | none => s

/-- The pending record is refused for want of its escort (R217, R450). -/
def refusePending (s : State) (st : Nat) (q : W64) : State :=
  match pendingAt s st q with
  | some (i, e) => answerPush (modEntry s st i fun e => { e with st := .done, refused := true, status := 0x010E, push := none }) st e 0x010E
  | none => s

/-- A withdrawal is settled (R454): the refusal entry takes its place, and esc_ok returns with the last. -/
def withdrawn (s : State) (st : Nat) (q : W64) : State :=
  let l := (strmOf s st).journal.filter fun e => e.wdWait && e.seq = q
  let s := modStrm s st fun x => { x with journal := x.journal.map fun e => if e.wdWait && e.seq = q then { e with wdDone := true, push := none } else e }
  let s := l.foldl (fun s e => answerPush s st e 0x010E) s
  let s : State := { s with esc := { s.esc with wd := s.esc.wd.erase (st, q) } }
  if s.esc.wd = [] then escRefresh s else s

/-- A ring on another node has answered (R240). -/
def ringAnswer (s : State) (ri st : Nat) (f : Nat) : State :=
  if f ≠ 0 then modRing s ri fun r => { r with busy := false, cfg := setBits (setBits r.cfg 7 1 0) 10 1 1 }
  else match nextEntry (strmOf s st) with
    | some (i, e) => afterEntry s st i e
    | none => modRing s ri fun r => { r with busy := false }

end Sys2Proof.Machine
end

