-- ==== Sys2Proof/Machine/Collect.lean ====
section
/-! DEFINITION. Communication groups and collectives (R336, R360 to R382, R438): rings of segments, dispatch and combine. -/

namespace Sys2Proof.Machine

/-! ### Groups and collectives in flight -/

/-- The group that a collective's record names. -/
def recGroup (rx : List Byte) : Nat :=
  if rOpc rx = 0x31 then fieldAt rx 0x48 0 12 else if rOpc rx = 0x52 then fieldAt rx 0x80 0 12 else fieldAt rx 0xC0 0 12

/-- A collective completes with a status, writing nothing (R363, R371, R381). -/
def stopColl (s : State) (c : Coll) (f : Status) : State :=
  modCmd (leaveColl s c false) c.st c.seq fun e => { e.finish f with waits := [] }

/-- The other members of a group with their ranks. -/
def others (g : Group) : List (Nat × Nat) := ((g.members.zipIdx).map fun x => (x.2, x.1)).filter fun x => x.1 ≠ g.rank

/-- ABORT to every member (R371). -/
def abortAll (s : State) (c : Coll) (f : Nat) : State :=
  let g := groupOf s c.group
  (others g).foldl (fun s m => sendTxn s 0x21 0 (BitVec.ofNat 16 m.2) g.epoch c.cseq (natLe 8 (f + c.group <<< 16)) .none) s

/-- The bookkeeping of a group's last DISPATCH. -/
def bookOf (s : State) (g : Nat) : Option DispBook := (s.lnk.disp.find? (·.1 = g)).map (·.2)

/-- The parameter digest of a collective (R371). N is the element count of a ring, the row length of a DISPATCH or COMBINE, and 1 of the rest, which
name no formats of I and O (log entry 113). A COMBINE takes map and kr from its DISPATCH. -/
def parDigest (s : State) (e : Entry) : List Byte :=
  let rx := e.rx
  let op := rOpc rx
  let i := parseDesc rx 0x40
  let d := op = 0x23 || op = 0x24
  let fam := famOf op = some 2
  let x : List Nat := [op, rNctl rx, rTid rx, rSeed rx, rCvt rx, if d then i.count 0 else if fam then i.total else 1,
    if fam then i.fmt else 0, if fam then (parseDesc rx 0x80).fmt else 0]
    ++ (if op = 0x23 then (match e.emap with | some m => [m.id, m.gen] | none => []) ++ [fieldAt rx 0xC0 24 4]
      else if op = 0x24 then (match bookOf s (recGroup rx) with
        | some k => [k.map.id, k.map.gen, k.gates.length / max 1 k.tokens] | none => [])
      else [])
  (sha384 (Config.layout 2 x)).take 16

/-! ### Rings (R366 to R370) -/

/-- The shape of a ring collective. `own` says that each rank's shard is its own N elements (allgather alone); `w` is the width of a
gathered element, `led` that gathered elements travel as trimmed-ledger blocks. -/
structure RingShape where
  n : Nat
  p : Nat
  rank : Nat
  w : Nat
  led : Bool
  own : Bool
  gather : Bool
  anchor : BitVec 12
deriving DecidableEq, Repr

/-- The shape of a command's ring. -/
def ringShape (e : Entry) (g : Group) : RingShape :=
  let rx := e.rx
  let op := rOpc rx
  let o := parseDesc rx 0x80
  let ring := famOf op = some 2
  { n := if ring then (parseDesc rx 0x40).total else 1, p := g.members.length, rank := g.rank,
    w := if ring then o.width else if op = 0x52 then 256 else 128, led := op = 0x20 && o.fmt = 0x20,
    own := op = 0x22 || op = 0x52, gather := op ≠ 0x21, anchor := BitVec.ofNat 12 (bits (rNctl rx) 8 12) }

/-- The blocks of 16 elements (R368). -/
def RingShape.nb (r : RingShape) : Nat := cdiv r.n 16

/-- First and end block of a shard (R368). -/
def RingShape.shard (r : RingShape) (k : Nat) : Nat × Nat := if r.own then (0, r.nb) else (k * r.nb / r.p, (k + 1) * r.nb / r.p)

/-- First and end block of a part of a shard (R368). -/
def RingShape.part (r : RingShape) (k q : Nat) : Nat × Nat :=
  let (a, b) := r.shard k
  (a + q * (b - a) / 8, a + (q + 1) * (b - a) / 8)

/-- Steps of one phase, and of all. -/
def RingShape.steps (r : RingShape) : Nat := r.p - 1
def RingShape.total (r : RingShape) : Nat := (if r.own then 0 else r.steps) + (if r.gather then r.steps else 0)

/-- Phase and step of a number counted over both phases. -/
def RingShape.at (r : RingShape) (u : Nat) : Nat × Nat := if r.own then (1, u) else if u ≤ r.steps then (0, u) else (1, u - r.steps)

/-- The shard that a rank sends in a step (R369). -/
def RingShape.sends (r : RingShape) (rank u : Nat) : Nat :=
  let (ph, t) := r.at u
  if ph = 0 then (rank + r.p - t % r.p) % r.p else (rank + r.p + 1 - t % r.p) % r.p

/-- Where the elements of a block start in the gathered list. -/
def RingShape.outBase (r : RingShape) (k : Nat) : Nat := if r.own then k * r.n else 0

/-- The positions of a block that exist. -/
def RingShape.positions (r : RingShape) (b : Nat) : List Nat := (List.range 16).filterMap fun j => if 16 * b + j < r.n then some (16 * b + j) else none

/-- The bytes of a block (R373 to R375): trimmed-ledger words, or 16 elements as packed bits; AGREE's block is its pair of integers. -/
def blockBytes (r : RingShape) (c : Coll) (ph k b : Nat) : List Byte :=
  if c.opc = 0x31 then natLe 8 c.ints.1 ++ natLe 8 c.ints.2
  else
    let out (i : Nat) : Nat := nth c.outs (r.outBase k + i)
    if ph = 0 then tleEncode ((r.positions b).map fun i => c.words.getD i (LWord.zero r.anchor))
    else if r.led then tleEncode ((r.positions b).map fun i => LWord.ofBits (out i))
    else natLe (2 * r.w) (((r.positions b).zipIdx).foldl (fun a x => a + out x.1 <<< (r.w * x.2)) 0)

/-- The blocks that one segment carries. -/
abbrev segBlocks : Nat := 16

/-- The segment descriptor (R375). -/
def segDesc (group ph part step k first rank gap : Nat) (anchor : BitVec 12) (blocks bytes : Nat) (dig : List Byte) : List Byte :=
  natLe 8 (group + ph <<< 12 + part <<< 16 + step <<< 32) ++ natLe 8 (k + first <<< 32) ++ natLe 8 (rank + gap <<< 16)
    ++ natLe 8 (anchor.toNat + blocks <<< 16 + bytes <<< 32) ++ dig ++ natLe 16 0

/-- The largest gap of the members whose contributions the member's copy of shard k includes, with its rank (R382): those that came with the shard, and
the member's own where it has contributed. -/
def gapOf (r : RingShape) (c : Coll) (k : Nat) : Nat × Nat :=
  let got := c.gaps.find? (·.1 = k)
  match got with
  | none => (r.rank, c.gap)
  | some (_, x) => if r.own then x else
      let y := { c with slowRank := x.1, slowGap := x.2 }.merge r.rank c.gap
      (y.slowRank, y.slowGap)

/-- Send the shard of a step to the next rank (R369); a shard without blocks still travels, as one empty segment (R372). -/
def sendStep (s : State) (st : Nat) (q : W64) (e : Entry) (c : Coll) (u : Nat) : State :=
  let g := groupOf s c.group
  let r := ringShape e g
  let (ph, t) := r.at u
  let k := r.sends r.rank u
  let dst := BitVec.ofNat 16 (nth g.members ((r.rank + 1) % r.p))
  let dig := parDigest s e
  let slow := gapOf r c k
  let cut (x : Nat × (Nat × Nat)) : List (Nat × Nat × Nat) :=
    (List.range (cdiv (x.2.2 - x.2.1) segBlocks)).map fun i => (x.1, i * segBlocks, min segBlocks (x.2.2 - x.2.1 - i * segBlocks))
  let segs := (List.range 8).flatMap fun p => cut (p, r.part k p)
  let segs := if segs = [] then [(0, 0, 0)] else segs
  let s := segs.foldl (fun s x =>
    let (p, first, n) := x
    let body := (List.range n).flatMap fun i => blockBytes r c ph k ((r.part k p).1 + first + i)
    sendFor s st q p 0x20 3 dst g.epoch c.cseq
      (segDesc c.group ph p t k first slow.1 slow.2 r.anchor n body.length dig ++ body)) s
  modColl s st q fun c => { c with sentTo := u }

/-- Every segment of a step has been used. -/
def gotStep (r : RingShape) (c : Coll) (u : Nat) : Bool :=
  let l := c.got.filter (·.1 = u)
  let k := r.sends ((r.rank + r.p - 1) % r.p) u
  let (a, b) := r.shard k
  l ≠ [] && (l.map fun x => x.2.2.2).sum = b - a

/-- Convert a complete sum at an element of O (R135, R370): the exact value of the word, once. -/
def convSum (rx : List Byte) (o : Desc) (i : Nat) (w : LWord) : Nat × Rep :=
  if o.fmt = 0x20 then (w.bits, repWord w)
  else match fmtOf o.fmt with
    | none => (0, {})
    | some f =>
      let t := tupleOf o.counts i
      let rnd := rCvt rx % 8
      let u := if rnd = 2 then dither (rSeed rx) (rTid rx) (nlOf rx) (linearOf (o.counts.drop 2) (t.drop 2)) (t.getD 1 0)
        (t.getD 0 0) 0xFFFFFFFF else 0
      let v := match w.value with | .fin ng num d x => Val.fin (ng && num ≠ 0) num d x | x => x
      let r := convert f rnd (bit (rCvt rx) 3) u v
      (r.enc, (repWord w).join (repTo f r))

/-- The elements of a shard. -/
def RingShape.elems (r : RingShape) (k : Nat) : List Nat :=
  let (a, b) := r.shard k
  (List.range (b - a)).flatMap fun i => r.positions (a + i)

/-- Convert the member's own shard (R370): encodings by element, with their report. For REDUCE_SCATTER an element's place in O counts
from the shard's start (R366). -/
def convShard (e : Entry) (r : RingShape) (c : Coll) : List (Nat × Nat) × Rep :=
  let o := parseDesc e.rx 0x80
  let l := r.elems r.rank
  let base := if c.opc = 0x21 then 16 * (r.shard r.rank).1 else 0
  let x := l.map fun i => (i, convSum e.rx o (i - base) (c.words.getD i (LWord.zero r.anchor)))
  (x.map fun y => (y.1, y.2.1), (x.map fun y => y.2.2).foldl Rep.join {})

/-- The term of an input element (R128, R367): a floating-point element placed with k equal to the rank, a Ledger word as it is. -/
def inputWord (m : Mem) (rx : List Byte) (rank : Nat) (anchor : BitVec 12) (i : Nat) : LWord :=
  let d := parseDesc rx 0x40
  let t := tupleOf d.counts i
  let z := LWord.zero anchor
  let x := readEl m d t
  if d.fmt = 0x20 then z.addInput (LWord.ofBits x)
  else
    let rnd := bits (rNctl rx) 21 2
    let u := if rnd = 2 then dither (rSeed rx) (rTid rx) (nlOf rx) (linearOf (d.counts.drop 2) (t.drop 2)) (t.getD 1 0)
      (t.getD 0 0) rank else 0
    z.add (place anchor rnd false false u (elVal d.fmt x)).word

/-- An element of X or I, converted at its source (R369, R377). The word that a floating-point element becomes is a free value (log entry 103). -/
def sourceEl (m : Mem) (rx : List Byte) (t : List Nat) : Nat × Rep :=
  let d := parseDesc rx 0x40
  let o := parseDesc rx 0x80
  let x := readEl m d t
  if copyPair d.fmt o.fmt then moveEl rx d.fmt o.fmt d.counts t x
  else
    let w := (Config.ledgerEnc d.fmt x (rNctl rx)).toNat
    (w, repWord (LWord.ofBits w))

/-- A converted input element of an ALLGATHER (R369). -/
def gatherEl (s : State) (rx : List Byte) (i : Nat) : Nat × Rep := sourceEl s.mem rx (tupleOf (parseDesc rx 0x40).counts i)

/-- A Ledger word of the input carries another anchor than the command's (R125). -/
def ancMis (m : Mem) (rx : List Byte) (anchor : BitVec 12) : Rep :=
  let d := parseDesc rx 0x40
  repBit 5 (d.fmt = 0x20 && (List.range d.total).any fun i => (LWord.ofBits (readEl m d (tupleOf d.counts i))).anchor ≠ anchor)

/-- Write elements of O by linear index; indices beyond O's own elements are not written (log entry 13). -/
def writeOut (s : State) (rx : List Byte) (l : List (Nat × Nat)) : State :=
  let o := parseDesc rx 0x80
  storeLink s (levelWrites s.mem rx ((l.filter (·.1 < o.total)).map fun x => (o.bitAddr (tupleOf o.counts x.1), o.width, x.2)))

/-- A ring collective has done its last step (R336, R366, R370, R372, R438). -/
def finishRing (s : State) (st : Nat) (q : W64) (e : Entry) (c : Coll) (r : RingShape) : State :=
  let rx := e.rx
  let s := leaveColl s c true
  let fin (s : State) (rep : Rep) : State := modCmd s st q fun e => { e with ran := true, nrep := levelReport s.mem rx rep.word }
  match c.opc.toNat with
  | 0x20 => fin (writeOut s rx ((c.outs.zipIdx).map fun x => (x.2, x.1))) ((convShard e r c).2.join (ancMis s.mem rx r.anchor))
  | 0x21 =>
    let (l, rep) := convShard e r c
    fin (writeOut s rx (l.map fun x => (x.1 - 16 * (r.shard r.rank).1, x.2))) (rep.join (ancMis s.mem rx r.anchor))
  | 0x22 =>
    let rep := ((List.range r.n).map fun i => (gatherEl s rx i).2).foldl Rep.join {}
    fin (writeOut s rx ((c.outs.zipIdx).map fun x => (x.2, x.1))) rep
  | 0x31 =>
    let a := wordAt rx 0x40 % 2 ^ 44
    let x := parseStep (recAt s e a)
    fin (loggedWrite s st q a (stepBytes { x with nonfinite := c.ints.1 % 2 ^ 64, d := c.ints.2, agreed := true })) {}
  | _ =>
    let key (k : Nat) : Nat := nth c.outs k % 2 ^ 192
    let bad := (List.range r.p).find? fun k => key k ≠ key 0
    let s := match bad with | some _ => raise s 0x24 0 0 11 0 (some (st, rTag e.bytes, 0, q)) | none => s
    let f : Status := if bad.isSome then 0x0703 else 0
    let s := modStrm s st fun x => { x with lastDigest := f }
    modCmd s st q fun e => { e with ran := true, status := f, aux := BitVec.ofNat 32 (bad.getD 0) }

/-- Send the steps whose inputs are here, convert the own shard between the phases, and finish after the last (R369, R372). -/
def advanceRing : Nat → State → Nat → W64 → State
  | 0, s, _, _ => s
  | n + 1, s, st, q =>
    match cmdOf s st q, collOf s st q with
    | some e, some c =>
      let r := ringShape e (groupOf s c.group)
      if c.sentTo ≠ 0 && !gotStep r c c.sentTo then s
      else
        let conv := !r.own && r.gather && c.sentTo = r.steps && c.opc ≠ 0x31
        let s := if conv then modColl s st q fun c =>
          { c with outs := ((convShard e r c).1).foldl (fun l x => l.set x.1 x.2) c.outs } else s
        match collOf s st q with
        | some c =>
          if c.sentTo = r.total then finishRing s st q e c r
          else advanceRing n (sendStep s st q e c (c.sentTo + 1)) st q
        | none => s
    | _, _ => s

/-- Let a ring go on. -/
def goRing (s : State) (st : Nat) (q : W64) : State :=
  match cmdOf s st q, collOf s st q with
  | some e, some c => advanceRing ((ringShape e (groupOf s c.group)).total + 2) s st q
  | _, _ => s

/-- The contributions of a member at the start or a restart of its ring. -/
def loadRing (s : State) (e : Entry) (c : Coll) (g : Group) : Coll :=
  let r := ringShape e g
  let rx := e.rx
  let c := { c with got := [], gaps := [], sentTo := 0, outs := [], slowRank := g.rank, slowGap := c.gap }
  match c.opc.toNat with
  | 0x22 => { c with outs := List.replicate (g.rank * r.n) 0 ++ ((List.range r.n).map fun i => (gatherEl s rx i).1)
                              ++ List.replicate ((r.p - 1 - g.rank) * r.n) 0 }
  | 0x31 => let x := parseStep (recAt s e (wordAt rx 0x40 % 2 ^ 44)); { c with ints := (x.nonfinite, x.d) }
  | 0x52 =>
    let x := leNat (digestRec s.mem (parseDesc rx 0x40) (wordAt rx 0x88))
    { c with outs := (List.replicate r.p 0).set g.rank x }
  | _ => { c with words := (List.range r.n).map fun i => inputWord s.mem rx g.rank r.anchor i, outs := List.replicate r.n 0 }

/-- A received block joins the collective (R367, R369). -/
def useBlock (r : RingShape) (c : Coll) (ph k b : Nat) (l : List Byte) : Coll × List Byte :=
  let ps := r.positions b
  if c.opc = 0x31 then
    let (x, y) := (leNat (slice l 0 8), leNat (slice l 8 8))
    ({ c with ints := if ph = 0 then ((c.ints.1 + x) % 2 ^ 64, min c.ints.2 y) else (x, y) }, l.drop 16)
  else
    let put (c : Coll) (xs : List Nat) : Coll := { c with outs := ((ps.zip xs).foldl (fun o x => o.set (r.outBase k + x.1) x.2) c.outs) }
    if ph = 0 then
      let ws := tleDecode r.anchor ps.length l
      ({ c with words := (ps.zip ws).foldl (fun o x => o.set x.1 ((o.getD x.1 (LWord.zero r.anchor)).add x.2)) c.words }, l.drop (tleLen l))
    else if r.led then (put c ((tleDecode r.anchor ps.length l).map LWord.bits), l.drop (tleLen l))
    else
      let n := leNat (slice l 0 (2 * r.w))
      (put c ((List.range ps.length).map fun i => bits n (r.w * i) r.w), l.drop (2 * r.w))

/-- Use a segment (R369, R371, R382): once, if its digest is the member's own. -/
def useSeg (s : State) (c : Coll) (e : Entry) (b : List Byte) : State :=
  let r := ringShape e (groupOf s c.group)
  let ph := fieldAt b 0 12 4
  let p := fieldAt b 0 16 3
  let t := fieldAt b 0 32 32
  let k := fieldAt b 8 0 32
  let first := fieldAt b 8 32 32
  let n := fieldAt b 0x18 16 16
  if slice b 0x20 16 ≠ parDigest s e then stopColl (abortAll s c 0x0606) c 0x0606
  else
    let u := if ph = 0 || r.own then t else r.steps + t
    if c.got.any fun x => x.1 = u && x.2.1 = p && x.2.2.1 = first then s
    else
      let (c', _) := (List.range n).foldl (fun (acc : Coll × List Byte) i => useBlock r acc.1 ph k ((r.part k p).1 + first + i) acc.2) (c, b.drop 64)
      let (sr, sg) := (fieldAt b 0x10 0 16, fieldAt b 0x10 16 32)
      let m := match c'.gaps.find? (·.1 = k) with | some x => { c' with slowRank := x.2.1, slowGap := x.2.2 }.merge sr sg | none => { c' with slowRank := sr, slowGap := sg }
      let c' := { c' with got := c'.got ++ [(u, p, first, n)], gaps := tins c'.gaps k (m.slowRank, m.slowGap) }.merge sr sg
      goRing (modColl s c.st c.seq fun _ => c') c.st c.seq

/-! ### Dispatch and combine (R376 to R381) -/

/-- The route list: expert and gate of each pair, kr for each token (R377). -/
def routes (m : Mem) (rx : List Byte) : List (Nat × Nat) :=
  (List.range (fieldAt rx 0xC0 24 4 * (parseDesc rx 0x40).count 1)).map fun i =>
    let w := leNat (rd m (wordAt rx 0xC8 % 2 ^ 44 + 8 * i) 8)
    (bits w 0 16, bits w 32 32)

/-- A source's pairs for an expert in order of token and j: the entry indices (R378). -/
def pairsFor (rs : List (Nat × Nat)) (x : Nat) : List Nat := (rs.zipIdx.filter fun r => r.1.1 = x).map (·.2)

/-- Counts of a rank for the experts, from what it announced. -/
def countsOf (c : Coll) (rank e : Nat) : List Nat :=
  (c.counts.filter (·.1 = rank)).foldl (fun l x => (x.2.2.zipIdx).foldl (fun l y => l.set (x.2.1 + y.2) y.1) l) (List.replicate e 0)

/-- The row that R378 gives pair (s, i) of an expert with counts `cs`. -/
def rowOf (cs : List Nat) (s i : Nat) : Nat :=
  (cs.map fun c => min c i).sum + ((cs.take s).filter (i < ·)).length

/-- How many pairs of each source an expert keeps (R378). -/
def keptOf (cs : List Nat) (cap : Nat) : List Nat :=
  cs.zipIdx.map fun x => ((List.range x.1).filter fun i => rowOf cs x.2 i < cap).length

/-- The experts homed at a rank, in order. -/
def homedAt (m : ExpMap) (rank : Nat) : List Nat := ((m.homes.zipIdx).filter fun h => h.1.1 = rank).map (·.2)

/-- Send a list of 32-bit values in pieces of 2,048 with its first index. -/
def sendList (s : State) (c : Coll) (ty : Nat) (dst : Nat) (extra : List Byte) (gap : Nat) (l : List Nat) : State :=
  let g := groupOf s c.group
  (List.range (cdiv l.length 2048)).foldl (fun s i =>
    let x := (l.drop (2048 * i)).take 2048
    sendFor s c.st c.seq 0 ty 0 (BitVec.ofNat 16 dst) g.epoch c.cseq
      (natLe 8 (c.group + gap <<< 32) ++ natLe 8 (2048 * i + x.length <<< 32) ++ extra ++ x.flatMap (natLe 4))) s

/-- Send rows with their tags to a member, as CARAVAN or RETURN transactions (R379, R380); a home without a row for a member returns it an empty
list, so that no COMBINE ends before every member has checked its Y (log entry 114). A RETURN carries the COMBINE's digest after its header (R371, log
entry 113). -/
def sendRows (s : State) (c : Coll) (ty dst rb : Nat) (digest : List Byte) (rows : List (Nat × List Byte)) : State :=
  let g := groupOf s c.group
  let per := max 1 ((9936 - digest.length) / (16 + rb))
  (List.range (max (cdiv rows.length per) (if ty = 0x25 then 1 else 0))).foldl (fun s i =>
    let x := (rows.drop (per * i)).take per
    sendFor s c.st c.seq 0 ty 3 (BitVec.ofNat 16 dst) g.epoch c.cseq
      (natLe 8 (c.group + x.length <<< 16 + rb <<< 32) ++ natLe 8 0 ++ digest ++ x.flatMap fun r => natLe 16 r.1 ++ r.2)) s

/-- The bytes of a row: its elements packed. -/
def packRow (w : Nat) (l : List Nat) : List Byte := natLe (cdiv (w * l.length) 8) ((l.zipIdx).foldl (fun a x => a + x.1 <<< (w * x.2)) 0)

/-- A tag (R379). -/
def mkTag (x j i t : Nat) : Nat := x + j <<< 16 + i <<< 32 + t <<< 64

/-- A token's row, converted to RA's format at the source (R377), with its report. -/
def tokenRow (m : Mem) (rx : List Byte) (t : Nat) : List Byte × Rep :=
  let els := (List.range ((parseDesc rx 0x40).count 0)).map fun n => sourceEl m rx [n, t, 0, 0, 0, 0]
  (packRow (parseDesc rx 0x80).width (els.map (·.1)), (els.map (·.2)).foldl Rep.join {})

/-- A row reaches its home (R378, R379). -/
def homeRow (c : Coll) (e : Entry) (p : Nat) (src tag : Nat) (d : List Byte) : Coll :=
  match e.emap with
  | none => c
  | some m =>
    let x := bits tag 0 16
    let cs := (List.range p).map fun r => (countsOf c r m.homes.length).getD x 0
    let slot := (m.homes.getD x (0, 0)).2
    let row := rowOf cs src (bits tag 32 32)
    if c.rows.any fun r => r.1 = slot && r.2.1 = row then c else { c with rows := c.rows ++ [(slot, row, src + tag <<< 16, d)] }

/-- The rows that a home waits for. -/
def rowsDue (c : Coll) (m : ExpMap) (p rank cap : Nat) : Nat :=
  ((homedAt m rank).map fun x => min cap ((List.range p).map fun r => (countsOf c r m.homes.length).getD x 0).sum).sum

/-- The kept pairs of the member: (entry index, expert, i). -/
def keptPairs (c : Coll) (m : ExpMap) (rs : List (Nat × Nat)) : List (Nat × Nat × Nat) :=
  (List.range m.homes.length).flatMap fun x =>
    let home := (m.homes.getD x (0, 0)).1
    let ix := (homedAt m home).findIdx (· = x)
    let k := ((c.accepts.filter fun a => a.1 = home && a.2.1 ≤ ix && ix < a.2.1 + a.2.2.length).head?.map
      fun a => nth a.2.2 (ix - a.2.1)).getD 0
    ((pairsFor rs x).zipIdx.filter (·.2 < k)).map fun p => (p.1, x, p.2)

/-- A DISPATCH completes (R379, R380): rows and counts are written, and the bookkeeping is kept for the COMBINE. -/
def finishDispatch (s : State) (e : Entry) (c : Coll) (m : ExpMap) (rs : List (Nat × Nat)) : State :=
  let rx := e.rx
  let o := parseDesc rx 0x80
  let kr := fieldAt rx 0xC0 24 4
  let kept := keptPairs c m rs
  let s := c.rows.foldl (fun s r =>
    let v := leNat r.2.2.2
    storeLink s (levelWrites s.mem rx ((List.range (o.count 0)).map fun n => (o.bitAddr [n, r.2.1, r.1, 0, 0, 0], o.width, bits v (o.width * n) o.width)))) s
  let s := (List.range (o.count 2)).foldl (fun s k =>
    store (tally s 3 true (wordAt rx 0xD0 % 2 ^ 44 + 4 * k) 4) (wordAt rx 0xD0 % 2 ^ 44 + 4 * k) (natLe 4 ((c.rows.filter (·.1 = k)).length))) s
  let named := (rs.filter (·.1 ≠ 0xFFFF)).length
  let book : DispBook :=
    { kept := kept.map fun k => (k.1 / kr, k.1 % kr, k.2.1, k.2.2), homed := c.rows.map fun r => (r.1, r.2.1, r.2.2.1 % 65536, r.2.2.1 >>> 16),
      map := m, gates := rs.map fun r => BitVec.ofNat 32 r.2, tokens := (parseDesc rx 0x40).count 1, levels := (o.count 1, o.count 2),
      gapRec := (c.slowRank, c.slowGap) }
  let s := { s with lnk := { s.lnk with disp := s.lnk.disp.filter (·.1 ≠ c.group) ++ [(c.group, book)] } }
  let rep := (kept.map fun k => (tokenRow s.mem rx (k.1 / max 1 kr)).2).foldl Rep.join {}
  modCmd (leaveColl s c true) c.st c.seq fun e =>
    { e with ran := true, aux := BitVec.ofNat 32 (sat 0xFFFFFFFF (named - kept.length)), nrep := levelReport s.mem rx rep.word }

/-- Let a DISPATCH go on: counts of every member, then ACCEPT to every source, then the kept rows, then the rows of its own experts
(R378, R379). `sentTo` counts the stages. -/
def goDispatch (s : State) (st : Nat) (q : W64) : State :=
  match cmdOf s st q, collOf s st q with
  | some e, some c =>
    match e.emap with
    | none => s
    | some m =>
      let g := groupOf s c.group
      let rx := e.rx
      let p := g.members.length
      let cap := (parseDesc rx 0x80).count 1
      let n := m.homes.length
      let rs := routes s.mem rx
      let all := (List.range p).all fun r => n ≤ ((c.counts.filter (·.1 = r)).map fun x => x.2.2.length).sum
      if !all then s
      else
        let mine := homedAt m g.rank
        let keep (src : Nat) : List Nat := mine.map fun x => nth (keptOf ((List.range p).map fun r => (countsOf c r n).getD x 0) cap) src
        let (s, c) := if c.sentTo = 0 then
            let c1 := { c with sentTo := 1, accepts := c.accepts ++ [(g.rank, 0, keep g.rank)] }
            ((others g).foldl (fun s o => sendList s c 0x23 o.2 [] 0 (keep o.1)) (modColl s st q fun _ => c1), c1)
          else (s, c)
        let ready := (List.range p).all fun h => (homedAt m h).length ≤ ((c.accepts.filter (·.1 = h)).map fun x => x.2.2.length).sum
        if !ready then s else
        let bad := if c.sentTo = 1 then recBad s rx else none
        let s := if c.sentTo = 1 then meetNamed s rx else s
        if bad.isSome then modCmd (leaveColl s c false) st q fun e => { e with stop := bad.map .uncorr }
        else
          let kr := max 1 (fieldAt rx 0xC0 24 4)
          let (s, c) := if c.sentTo = 1 then
              let rows := (keptPairs c m rs).map fun k =>
                ((m.homes.getD k.2.1 (0, 0)).1, mkTag k.2.1 (k.1 % kr) k.2.2 (k.1 / kr), (tokenRow s.mem rx (k.1 / kr)).1)
              let c1 := (rows.filter (·.1 = g.rank)).foldl (fun c r => homeRow c e p g.rank r.2.1 r.2.2) { c with sentTo := 2 }
              let s := modColl s st q fun _ => c1
              ((others g).foldl (fun s o =>
                sendRows s c 0x24 o.2 (cdiv ((parseDesc rx 0x80).width * (parseDesc rx 0x40).count 0) 8) []
                  ((rows.filter (·.1 = o.1)).map (·.2))) s, c1)
            else (s, c)
          if c.rows.length < rowsDue c m p g.rank cap then s else finishDispatch s e c m rs
  | _, _ => s

/-- A Ledger word that a COMBINE reads carries another anchor than the command's (R125): one of Y that this member returned, or one of a row
that it sums. -/
def combineMis (m : Mem) (rx : List Byte) (a : BitVec 12) (c : Coll) (k : DispBook) : Rep :=
  let y := parseDesc rx 0x40
  let els := List.range (y.count 0)
  let off (x : Nat) : Bool := (LWord.ofBits x).anchor ≠ a
  repBit 5 (y.fmt = 0x20 && ((k.homed.any fun h => els.any fun n => off (readEl m y [n, h.2.1, h.1, 0, 0, 0]))
    || c.rows.any fun r => els.any fun n => off (bits (leNat r.2.2.2) (y.width * n) y.width)))

/-- A COMBINE's sums (R380): a Ledger word of another anchor is a NaN term (R125). -/
def finishCombine (s : State) (e : Entry) (c : Coll) (k : DispBook) : State :=
  let rx := e.rx
  let y := parseDesc rx 0x40
  let o := parseDesc rx 0x80
  let a : BitVec 12 := BitVec.ofNat 12 (bits (rNctl rx) 8 12)
  let rnd := bits (rNctl rx) 21 2
  let kr := k.gates.length / max 1 k.tokens
  let el (t n : Nat) : Nat × Rep :=
    let rows := c.rows.filter fun r => r.1 = t
    let w := rows.foldl (fun (w : LWord) r =>
      let x := bits (leNat r.2.2.2) (y.width * n) y.width
      let v := if y.fmt = 0x20 && (LWord.ofBits x).anchor ≠ a then .nan else elVal y.fmt x
      let gt := decodeVal fp32 (k.gates.getD (t * kr + r.2.1) 0).toNat
      let u := if rnd = 2 then dither (rSeed rx) (rTid rx) (nlOf rx) 0 t n r.2.1 else 0
      w.add (place a rnd false false u (Val.mul v gt)).word) (LWord.zero a)
    convSum rx o (linearOf o.counts [n, t, 0, 0, 0, 0]) w
  let els := (List.range k.tokens).flatMap fun t => (List.range (y.count 0)).map fun n => (t, n, el t n)
  let s := storeLink s (levelWrites s.mem rx
    ((els.filter fun x => x.2.1 < o.count 0 && x.1 < o.count 1).map fun x => (o.bitAddr [x.2.1, x.1, 0, 0, 0, 0], o.width, x.2.2.1)))
  let rep := (els.map fun x => x.2.2.2).foldl Rep.join (combineMis s.mem rx a c k)
  let c := { c with slowRank := k.gapRec.1, slowGap := k.gapRec.2 }
  modCmd (leaveColl s c true) c.st c.seq fun e => { e with ran := true, nrep := levelReport s.mem rx rep.word }

/-- Let a COMBINE go on: every kept row and a RETURN of every member must have come (log entry 114). `got` lists the members heard. -/
def goCombine (s : State) (st : Nat) (q : W64) : State :=
  match cmdOf s st q, collOf s st q with
  | some e, some c =>
    match bookOf s c.group with
    | some k =>
      if c.rows.length < k.kept.length || (others (groupOf s c.group)).any fun o => !c.got.any (·.1 = o.1) then s else finishCombine s e c k
    | none => s
  | _, _ => s

/-- A COMBINE starts: as a home it returns its rows (R380). -/
def startCombine (s : State) (e : Entry) (c : Coll) : State :=
  let g := groupOf s c.group
  let y := parseDesc e.rx 0x40
  match bookOf s c.group with
  | none => stopColl (abortAll s c 0x0606) c 0x0606
  | some k =>
    if (y.count 1, y.count 2) ≠ k.levels then stopColl (abortAll s c 0x0606) c 0x0606
    else
      let rows := k.homed.map fun h => (h.2.2.1, h.2.2.2, packRow y.width ((List.range (y.count 0)).map fun n => readEl s.mem y [n, h.2.1, h.1, 0, 0, 0]))
      let own := (rows.filter (·.1 = g.rank)).map fun r => (bits r.2.1 64 32, bits r.2.1 16 3, 0, r.2.2)
      let s := tallyBits s 3 false (k.homed.flatMap fun h => (List.range (y.count 0)).map fun n => (y.bitAddr [n, h.2.1, h.1, 0, 0, 0], y.width, 0))
      let s := modColl s c.st c.seq fun c => { c with rows := own }
      goCombine ((others g).foldl (fun s o => sendRows s c 0x25 o.2 (cdiv (y.width * y.count 0) 8) (parDigest s e) ((rows.filter (·.1 = o.1)).map (·.2))) s) c.st c.seq

/-- A DISPATCH starts (R378, R381): the former bookkeeping ends, the routes are checked, and COUNT goes to every member. -/
def startDispatch (s : State) (e : Entry) (c : Coll) : State :=
  let g := groupOf s c.group
  let rs := routes s.mem e.rx
  let s := { s with lnk := { s.lnk with disp := s.lnk.disp.filter (·.1 ≠ c.group) } }
  let s := tally s 3 false (wordAt e.rx 0xC8 % 2 ^ 44) (8 * rs.length)
  let fault (s : State) : State := stopColl (abortAll s c 0x0608) c 0x0608
  match e.emap with
  | none => fault s
  | some m =>
    let n := m.homes.length
    if m.group ≠ c.group || rs.any fun r => r.1 ≠ 0xFFFF && n ≤ r.1 then fault s
    else
      let cs := (List.range n).map fun x => (pairsFor rs x).length
      let s := modColl s c.st c.seq fun c => { c with counts := c.counts ++ [(g.rank, 0, cs)] }
      goDispatch ((others g).foldl (fun s o => sendList s c 0x22 o.2 (parDigest s e) c.gap cs) s) c.st c.seq

/-! ### Delivery (R361) -/

/-- The rows of a CARAVAN or RETURN body from an offset: tag and bytes. -/
def bodyRows (b : List Byte) (off : Nat) : List (Nat × List Byte) :=
  let n := fieldAt b 0 16 16
  let rb := fieldAt b 0 32 32
  (List.range n).map fun i => (leNat (slice b (off + i * (16 + rb)) 16), slice b (off + 16 + i * (16 + rb)) rb)

/-- The group that a collective transaction names. -/
def txnGroup (t : Txn) : Nat := if t.ttype = 0x21 then fieldAt t.body 0 16 12 else fieldAt t.body 0 0 12

/-- A collective transaction meets its collective. -/
def useTxn (s : State) (c : Coll) (t : Txn) : State :=
  let g := groupOf s c.group
  match cmdOf s c.st c.seq, g.members.findIdx? (· = t.src.toNat) with
  | some e, some rank =>
    let ring := c.opc ≠ 0x23 && c.opc ≠ 0x24
    let list := (List.range (fieldAt t.body 8 32 32)).map fun i => leNat (slice t.body ((if t.ttype = 0x22 then 32 else 16) + 4 * i) 4)
    if t.ttype = 0x21 then stopColl s c (BitVec.ofNat 16 (fieldAt t.body 0 0 16))
    else if t.ttype = 0x20 && ring then useSeg s c e t.body
    else if t.ttype = 0x22 && c.opc = 0x23 then
      if slice t.body 16 16 ≠ parDigest s e then stopColl (abortAll s c 0x0606) c 0x0606
      else goDispatch (modColl s c.st c.seq fun c =>
        { c with counts := c.counts ++ [(rank, fieldAt t.body 8 0 32, list)] }.merge rank (fieldAt t.body 0 32 32)) c.st c.seq
    else if t.ttype = 0x23 && c.opc = 0x23 then
      goDispatch (modColl s c.st c.seq fun c => { c with accepts := c.accepts ++ [(rank, fieldAt t.body 8 0 32, list)] }) c.st c.seq
    else if t.ttype = 0x24 && c.opc = 0x23 then
      goDispatch (modColl s c.st c.seq fun c => (bodyRows t.body 16).foldl (fun c r => homeRow c e g.members.length rank r.1 r.2) c) c.st c.seq
    else if t.ttype = 0x25 && c.opc = 0x24 then
      if slice t.body 16 16 ≠ parDigest s e then stopColl (abortAll s c 0x0606) c 0x0606
      else goCombine (modColl s c.st c.seq fun c =>
        { c with got := c.got ++ [(rank, 0, 0, 0)], rows := c.rows ++ (bodyRows t.body 32).map fun r => (bits r.1 64 32, bits r.1 16 3, 0, r.2) }) c.st c.seq
    else stopColl (abortAll s c 0x0606) c 0x0606
  | _, _ => s

/-- A collective transaction at its receiver (R361). -/
def deliver (s : State) (t : Txn) : State :=
  let i := txnGroup t
  let g := groupOf s i
  let keep : State := { s with lnk := { s.lnk with kept := s.lnk.kept ++ [t] } }
  if !g.valid || g.epoch < t.a then keep
  else if t.a < g.epoch then s
  else if g.cseq ≤ t.b then keep
  else match s.lnk.colls.find? fun c => c.group = i && c.cseq = t.b with
    | some c => useTxn s c t
    | none => s

/-- Deliver what was kept (R361). -/
def redeliver (s : State) : State := s.lnk.kept.foldl deliver { s with lnk := { s.lnk with kept := [] } }

/-- Start the exchange of a collective. -/
def beginColl (s : State) (e : Entry) (c : Coll) : State :=
  let s := { s with lnk := { s.lnk with colls := s.lnk.colls.filter (fun x => !(x.st = c.st && x.seq = c.seq)) ++ [c] } }
  let s := if c.opc = 0x23 then startDispatch s e c else if c.opc = 0x24 then startCombine s e c
    else goRing (modColl s c.st c.seq fun c => loadRing s e c (groupOf s c.group)) c.st c.seq
  redeliver s

/-- A collective command runs (R361, R381, R382); the units hash a DIGEST's elements once they hold their grants (R437, R490). It starts once, by taking its number on the group. A first collective has no gap that
R382 states: a free value. -/
def runColl (s : State) (st : Nat) (q : W64) (e : Entry) : State :=
  let rx := e.rx
  let i := recGroup rx
  let g := groupOf s i
  if e.ran || e.stop.isSome || (collOf s st q).isSome then s
  else
    let a := parseDesc rx 0x40
    let dig := rOpc rx = 0x52
    if dig && !unitsReady s a then s else
    let (s, bad) := meetCmd s rx
    match bad with
    | some x => modCmd s st q fun e => { e with stop := some (.uncorr x) }
    | none =>
      let s := if rOpc rx = 0x24 || dig || rOpc rx = 0x31 then s
        else tallyBits s 3 false ((List.range a.total).map fun i => (a.bitAddr (tupleOf a.counts i), a.width, 0))
      let d := wordAt rx 0x90 % 2 ^ 44
      let s := if dig then countElems (store (tally s 2 true d 32) d (digestRec s.mem a (wordAt rx 0x88))) a else s
      if !g.valid then modCmd (freeBook s rx) st q fun e => e.finish 0x0604
      else
        let (gap, s) := match g.lastEnd with
          | some x => (sat 0xFFFFFFFF (s.clock - x), s)
          | none => ((Config.freeValue s.free).toNat % 2 ^ 32, freshFree s)
        let s := modGroup s i fun g => { g with cseq := g.cseq + 1 }
        beginColl s e { st := st, seq := q, opc := BitVec.ofNat 8 (rOpc rx), group := i, cseq := g.cseq, startUs := s.clock, gap := gap,
                        slowRank := g.rank, slowGap := gap }

/-! ### Group commits (R360, R363) -/

/-- A list names no node twice. -/
def distinct : List Nat → Bool
  | [] => true
  | x :: r => !r.contains x && distinct r

/-- The in-flight collectives of a group after its membership changed (R363). -/
def changeColls (s : State) (i : Nat) (drop : Bool) : State :=
  (s.lnk.colls.filter (·.group = i)).foldl (fun s c =>
    if drop && (c.opc = 0x20 || c.opc = 0x31) then
      match cmdOf s c.st c.seq with
      | some e =>
        let (s, bad) := meetCmd s e.rx
        match bad with
        | some x => modCmd (leaveColl s c false) c.st c.seq fun e => { e with stop := some (.uncorr x), waits := [] }
        | none => beginColl (modCmd s c.st c.seq fun e => { e with waits := [] }) e c
      | none => s
    else stopColl s c 0x0605) s

/-- Commit a staged group entry (R360, R363). -/
def commitGroup (s : State) (i : Nat) : State :=
  let g := groupOf s i
  let p := bits g.sEnt.toNat 16 16 + 1
  let rank := bits g.sEnt.toNat 32 16
  let a := bits g.sList.toNat 0 44
  let err (s : State) : State := modGroup s i fun g => { g with wrErr := true }
  if a % 64 ≠ 0 || !openRange s.cfg.conf a (2 * p) then err s
  else
    let (s1, b) := fetch (tally s 5 false a (2 * p)) a (2 * p)
    let l := (List.range p).map fun k => leNat (rd s1.mem (a + 2 * k) 2)
    let total := ((s.lnk.groups.filter fun x => x.1 ≠ i && x.2.valid).map fun x => x.2.members.length).sum
    if b.isSome || l[rank]? ≠ some s.cfg.conf.node.toNat || !distinct l || (g.valid && g.sEpoch ≤ g.epoch) || 1048576 < total + p then err s1
    else
      let same := g.valid && g.members = l && g.rank = rank
      let drop := bit g.sEnt.toNat 1
      let s := modGroup s1 i fun g => { g with valid := true, dropOk := drop, rank := rank, epoch := g.sEpoch, members := l, list := a,
                                               cseq := if g.valid then g.cseq else 0 }
      let s := if same || !g.valid then s else changeColls s i drop
      redeliver s

/-- Invalidate a group entry (R363). -/
def invalidateGroup (s : State) (i : Nat) : State :=
  if !(groupOf s i).valid then s else modGroup (changeColls s i false) i fun g => { g with valid := false }

end Sys2Proof.Machine
end

