-- ==== Sys2Proof/Machine/Survive.lean ====
section
/-! DEFINITION. Surviving device loss: escorts (R448 to R462), snapshots and parity (R463 to R474), rollback, rebuild and resume
(R475 to R481). -/

namespace Sys2Proof.Machine

/-! ### The job and its parity group -/

/-- The members of the job group. -/
def jobMembers (s : State) : List Nat :=
  match s.cfg.conf.job with | some j => (groupOf s j.jobGroup).members | none => []

/-- The parity group's entry. -/
def parityGroup (s : State) : Group :=
  match s.cfg.conf.job with | some j => groupOf s j.parityGroup | none => {}

/-- Send to every other member of the job group, until each has answered (log entry 82). -/
def toJob (s : State) (ty : Nat) (a b : W64) (body : List Byte) : State :=
  ((jobMembers s).filter (· ≠ s.cfg.conf.node.toNat)).foldl (fun s n => sendTxn s ty 0 (BitVec.ofNat 16 n) a b body .keep) s

/-- The member's own page count (R463). -/
def ownPages (s : State) : Nat := match s.cfg.conf.job with | some j => pageCount j | none => 0

/-- n of R463: the largest page count that the Manifests of the parity group name, or the own one (log entry 15). -/
def maxPages (s : State) : Nat :=
  (s.job.mans.filter fun x => (parityGroup s).members.contains x.2.1.toNat).foldl (fun m x => max m (fieldAt x.2.2 0x20 0 32)) (ownPages s)

/-- Stripe and position of page j of parity rank d in a group of g (R464). -/
def stripeOf (g d j : Nat) : Nat :=
  let q := j / (g - 1)
  let c := j % (g - 1)
  q * g + (if c < d then c else c + 1)

/-- The page of rank d in stripe s, none where the rank holds the parity (R464). -/
def pageIn (g d s : Nat) : Option Nat :=
  let pos := s % g
  if pos = d then none else some (s / g * (g - 1) + (if pos < d then pos else pos - 1))

/-- Parity pages of each member (R464). -/
def parityPages (s : State) : Nat := cdiv (maxPages s) ((parityGroup s).members.length - 1)

/-- The Manifest (R474). -/
def manifest (s : State) (sn : Snap) (state : Nat) : List Byte :=
  match s.cfg.conf.job with
  | none => List.replicate 384 0
  | some j =>
    let p := parityGroup s
    let w (x : Nat) : List Byte := natLe 8 x
    let head := w (0x0103 + (incarnation s).toNat <<< 32) ++ w sn.serial
      ++ w (j.jobGroup + j.parityGroup <<< 16 + (p.members.length % 256) <<< 32 + (p.rank % 256) <<< 40 + s.cfg.conf.node.toNat <<< 48)
      ++ w sn.epoch.toNat ++ w (ownPages s + maxPages s <<< 32)
      ++ w (parityPages s % 2 ^ 32 + (b2n sn.gen) <<< 32 + j.ranges.length <<< 40) ++ w s.job.copied ++ w state
    slice (slice head 0 0x80 ++ j.ranges.flatMap fun r => w r.1 ++ w r.2) 0 384

/-- Write a Manifest where a record names an address (R467, R474). -/
def writeManifest (s : State) (a : Nat) (m : List Byte) : State := if a = 0 then s else storeCtl s a m

/-! ### Snapshots (R467 to R472) -/

/-- Mark the done entries of bound streams that wait for a snapshot (R472). -/
def deferTo (s : State) (k : Nat) : State :=
  let f (x : Stream) : Stream := { x with journal := x.journal.map fun e =>
    if !e.refused && e.st = .done && e.snap.isNone then { e with snap := some k } else e }
  let l := s.cmd.streams.map fun x => if bound s x.1 then (x.1, f x.2) else x
  { s with cmd := { s.cmd with streams := l } }

/-- Entries that waited for an abandoned snapshot wait for the next one. -/
def undefer (s : State) (k : Nat) : State :=
  let f (x : Stream) : Stream := { x with journal := x.journal.map fun e => if e.snap = some k then { e with snap := none } else e }
  let l := s.cmd.streams.map fun x => if bound s x.1 then (x.1, f x.2) else x
  { s with cmd := { s.cmd with streams := l } }

/-- The commands of bound streams that have started (R475). -/
def startedCmds (s : State) : List (Nat × W64) :=
  s.cmd.streams.flatMap fun x => if bound s x.1 then
      (x.2.journal.filter fun e => !e.refused && (e.st = .running || e.st = .done || e.st = .completed)).map fun e => (x.1, e.seq)
    else []

/-- The protected pages that hold a byte other than zero, in increasing order. -/
def livePages (s : State) (j : JobRec) : List Nat :=
  (List.range (pageCount j)).filter fun p => (pageCells s.mem (pageBase j p)).any fun c => c.2 ≠ 0

/-- Read a chunk of 8 KiB of a page's image: the copy if one exists, else the live page (R469), whose words are met as an engine meets them (R294,
R295). What stands for a word that cannot be corrected is a free value (log entry 87); a poisoned word of a copy is counted under its page's address. -/
def imageChunk (s : State) (sn : Snap) (j : JobRec) (p c : Nat) : State × List Byte :=
  let b := pageBase j p + 8192 * c
  let stk (s : State) : State := if b < 0x80000000 then addSomeStk s false 8192 else addStk s (hbmMap b).1 false 8192
  let free (s : State) (bad : List Nat) (f : Nat → Byte) : State × List Byte :=
    (if bad = [] then s else { s with free := s.free + 8192 },
      (List.range 8192).map fun i => if bad.contains ((b + i) / 32) then BitVec.ofNat 8 (Config.freeValue (s.free + i)).toNat else f (b + i))
  if sn.nil.contains p then (stk s, List.replicate 8192 0)
  else match sn.copies.find? (·.1 = p) with
    | some cp =>
      let bad := (cp.2.2.map Prod.fst).filter fun w => b / 32 ≤ w && w < b / 32 + 256
      free (bad.foldl (fun s w => countUe (noteUe s w 0) w) (stk s)) bad fun a => tget cp.2.1 a 0
    | none =>
      let bad := (errWords s.mem b 8192).filter (badWord s.mem)
      free (fetch (tally s 3 false b 8192) b 8192).1 bad (rdB s.mem)

/-- Send the image of every non-zero page to the holder of its stripe (R470). -/
def sendPages (s : State) (sn : Snap) (j : JobRec) : State :=
  let p := parityGroup s
  let g := p.members.length
  if g < 2 then s
  else (livePages s j).foldl (fun s pg =>
    let st := stripeOf g p.rank pg
    let dst := BitVec.ofNat 16 (nth p.members (st % g))
    (List.range 256).foldl (fun s c =>
      let (s, d) := imageChunk s sn j pg c
      let s := sendTxn s 0x35 1 dst (BitVec.ofNat 64 sn.serial) (BitVec.ofNat 64 (st + c <<< 32)) d .page
      { s with job := { s.job with sentPages := s.job.sentPages ++ [(st, c)] } }) s) s

/-- The snapshot in progress is discarded (R471, R475). -/
def abandonSnap (s : State) : State :=
  match s.job.cur with
  | none => s
  | some sn => undefer { s with job := { s.job with cur := none, sentPages := [], parNew := s.job.parNext, parNext := [], done := false, acked := 0 } } sn.serial

/-- The snapshot completes at this member (R471, R472, R481). -/
def completeSnap (s : State) (sn : Snap) : State :=
  let j := s.job
  { s with job := { j with held := some sn, cur := none, parity := j.parNew, parNew := j.parNext, parNext := [], gen := sn.gen, done := false,
                           sentPages := [], acked := 0, replay := false } }

/-- Let a snapshot go on (R471): this member's part is complete once its pages are acknowledged, and the snapshot once every member has
said so. -/
def goSnap (s : State) : State :=
  match s.job.cur with
  | none => s
  | some sn =>
    if s.job.mans.any fun m => m.1 = sn.serial && m.2.2 = [] then abandonSnap s
    else
      let me := s.cfg.conf.node
      let s := if !s.job.done && s.job.sentPages = [] then
          let m := manifest s sn 1
          let s := { s with job := { s.job with done := true, mans := s.job.mans ++ [(sn.serial, me, m)] } }
          toJob s 0x36 (BitVec.ofNat 64 sn.serial) 1 m
        else s
      if (jobMembers s).all fun n => s.job.mans.any fun m => m.1 = sn.serial && m.2.1.toNat = n && m.2.2 ≠ [] then completeSnap s sn else s

/-- SNAP_BEGIN runs (R467, R468). One that reads an uncorrectable word of a page fails by R296, and its snapshot is abandoned (log entry 87). -/
def runSnapBegin (s : State) (st : Nat) (q : W64) (e : Entry) : State :=
  let a := wordAt e.bytes 0x48 % 2 ^ 44
  let fin (s : State) (f : Status) (aux : Nat) (k : Option Nat) : State :=
    modCmd s st q fun e => { e with ran := true, status := f, aux := BitVec.ofNat 32 aux, snap := k }
  if e.ran || e.stop.isSome then s
  else match s.cfg.conf.job with
    | none => fin s 0 0xFFFFFFFF none
    | some j =>
      if !j.streams.contains st then fin s 0 0xFFFFFFFF none
      else
        let k := s.job.serial + 1
        let new : Snap := { serial := k, epoch := (groupOf s j.jobGroup).epoch, gen := !s.job.gen }
        let s := { s with job := { s.job with serial := k, last := some new } }
        let abandon (s : State) : State :=
          let s := { s with job := { s.job with parNew := s.job.parNext, parNext := [] } }
          toJob s 0x36 (BitVec.ofNat 64 k) 2 (manifest s new 2)
        if bit (wordAt e.bytes 0x40) 0 && (strmOf s st).lastDigest ≠ 0 then fin (abandon s) 0x0704 k none
        else match (livePages s j).findSome? fun p => firstBad s.mem (pageBase j p) page with
        | some a => modCmd (abandon (meetQuiet s (a / 32))) st q fun e => { e with stop := some (.uncorr a) }
        | none =>
          let mem := jobMembers s
          let gs := s.lnk.groups.filter fun x => x.2.valid && x.2.members.all mem.contains
          let sn : Snap :=
            { new with cseqs := gs.map fun x => (x.1, x.2.cseq), syncs := (List.range j.nsync).map fun i => (j.sync0 + i, syncOf s (j.sync0 + i)),
                       started := startedCmds s }
          let s := deferTo { s with job := { s.job with cur := some sn, copied := 0, acked := 0, done := false } } k
          let s := writeManifest s a (manifest s sn 0)
          goSnap (fin (sendPages s sn j) 0 k (some k))

/-- SNAP_END runs (R467, R471): it waits for the last snapshot to complete or to be abandoned. -/
def runSnapEnd (s : State) (st : Nat) (q : W64) (e : Entry) : State :=
  let a := wordAt e.bytes 0x48 % 2 ^ 44
  let fin (s : State) (f : Status) (aux : Nat) (k : Option Nat) : State :=
    modCmd s st q fun e => { e with ran := true, status := f, aux := BitVec.ofNat 32 aux, snap := k }
  if e.ran then s
  else match s.cfg.conf.job with
    | none => fin s 0 0xFFFFFFFF none
    | some j =>
      if !j.streams.contains st then fin s 0 0xFFFFFFFF none
      else if s.job.cur.isSome then s
      else
        let k := s.job.serial
        let left : Snap := match s.job.last with | some sn => sn | none => { serial := k }
        match s.job.held with
        | some sn =>
          if sn.serial = k then fin (writeManifest s a (manifest s sn 1)) 0 k (some k)
          else fin (writeManifest s a (manifest s left 2)) 0x0704 k none
        | none => fin (writeManifest s a (manifest s left 2)) 0x0704 k none

/-! ### Holding and rolling back (R475) -/

/-- Stripes whose 256 chunks have all come. -/
def rebuilt (s : State) : Nat := (s.job.rblt.filter fun x => x.2 = 256).length

/-- This device is a replacement whose rebuild is not complete. -/
def rebuilding (s : State) : Bool := s.job.st = 4 && rebuilt s < s.job.total

/-- Put back a page of the held image: its bytes, and the words that were in error when they were copied. -/
def restorePage (m : Mem) (base : Nat) (c : List (Nat × Byte) × List (Nat × BitVec 288)) : Mem :=
  let m := { m with cells := tdrop m.cells base (base + page), err := tdrop m.err (base / 32) ((base + page) / 32) }
  c.2.foldl (fun m e => setErr m e.1 e.2) (c.1.foldl (fun m c => { m with cells := tput m.cells c.1 c.2 0 }) m)

/-- An entry that goes back to the accepted state. -/
def Entry.again (e : Entry) : Entry :=
  { e with st := .accepted, status := 0, nrep := 0, foff := 0, aux := 0, plan := none, work := [], drained := [], staged := [], blocks := [],
           copies := [], recs := [], chunk := none, chunks := [], opt := [], late := [], shadowed := [], redo := [], ran := false, stop := none, log := [], waits := [], snap := none }

/-- Whether a command of a bound stream started after the held SNAP_BEGIN. -/
def afterHeld (s : State) (st : Nat) (e : Entry) : Bool :=
  match s.job.held with
  | some h => bound s st && !e.refused && (e.st = .running || e.st = .done) && !h.started.contains (st, e.seq)
      && !(match e.snap with | some k => k ≤ h.serial | none => false)
  | none => false

/-- The jobs of a command leave the tiles and the counter. -/
def dropJobs (s : State) (st : Nat) (q : W64) : State :=
  let mine (j : TJob) : Bool := !j.ballast && j.st = st && j.seq = q
  let f (t : Tile) : Tile :=
    { t with job := t.job.filter fun j => !mine j, reserve := t.reserve.filter fun j => !mine j }
  let s := dropChunk (dropBlocks (dropBatch s st q) st q) st q
  { s with til := { s.til with tiles := s.til.tiles.map fun x => (x.1, f x.2) },
           lnk := { s.lnk with colls := s.lnk.colls.filter fun c => !(c.st = st && c.seq = q) },
           cmd := { s.cmd with wsWait := s.cmd.wsWait.filter (· ≠ (st, q)) } }

/-- A rollback's write of d to the job's step record while the drop rule is in force (R328, R478). -/
def dropStep (s : State) : State :=
  match s.cfg.conf.job with
  | some j => if s.job.drop then storeCtl s (j.stepAddr + 0x2C) (natLe 4 (dropD s j.stepAddr (leNat (rd s.mem (j.stepAddr + 0x30) 4)))) else s
  | none => s

/-- What came for snapshots after the held one is dropped: SNAPSYNCs and parity. -/
def dropNew (s : State) : State :=
  let k := match s.job.held with | some h => h.serial | none => 0
  { s with job := { s.job with mans := s.job.mans.filter (·.1 ≤ k), parNew := [], parNext := [] } }

/-- Roll back to the held image (R475 steps 2 and 3; R478 for the step record's divisor). The next snapshot takes the serial above the held one's
again, as the chapter's example has it. -/
def rollBack (s : State) : State :=
  let s := dropNew (abandonSnap s)
  let s := { s with job := { s.job with serial := match s.job.held with | some h => h.serial | none => 0 } }
  match s.job.held, s.cfg.conf.job with
  | some h, some j =>
    let m := h.copies.foldl (fun m c => restorePage m (pageBase j c.1) c.2) s.mem
    let m := h.nil.foldl (fun m p => restorePage m (pageBase j p) ([], [])) m
    let s := dropStep { s with mem := m }
    let s := h.cseqs.foldl (fun s x => modGroup s x.1 fun g => { g with cseq := x.2, epoch := g.epoch + 1 }) s
    let sy := h.syncs.foldl (fun t x => tput t x.1 x.2 0) s.cmd.sync
    let s := { s with cmd := { s.cmd with sync := sy } }
    let back : List (Nat × W64) := s.cmd.streams.flatMap fun x => (x.2.journal.filter (afterHeld s x.1)).map fun e => (x.1, e.seq)
    back.foldl (fun s b => modCmd (dropJobs s b.1 b.2) b.1 b.2 Entry.again) s
  | _, _ => s

/-- Hold the job (R475); a second lost member of the parity group makes a rebuild impossible (R479). -/
def holdTheJob (s : State) : State :=
  if s.cfg.conf.job.isNone then s
  else
    let pg := (parityGroup s).members
    let own := b2n (rebuilding s)
    let lostP := ((s.job.lostSet.map fun x => x.1.toNat).eraseDups.filter pg.contains).length
    let s := rollBack s
    let st := if 2 ≤ lostP + own || s.job.st = 5 then 5 else if own = 1 then 4 else 2
    let j := { s.job with st := st, restores := [], ask := 0 }
    { s with job := if st = 2 then { j with total := 0, rblt := [] } else j }

/-! ### Rebuild (R476) -/

/-- The chain of survivors of a stripe: from rank (s + 1) mod g upwards, skipping the lost rank. -/
def chainOf (g lost st : Nat) : List Nat := ((List.range g).map fun i => (st + 1 + i) % g).filter (· ≠ lost)

/-- The stripes of the group. -/
def stripeCount (s : State) : Nat := (parityGroup s).members.length * parityPages s

/-- The chunk that a survivor adds (R476): its data page of the held image, or its parity page of the held generation. -/
def survivorChunk (s : State) (st c : Nat) : State × List Byte :=
  let p := parityGroup s
  match pageIn p.members.length p.rank st, s.cfg.conf.job with
  | some pg, some j =>
    if pageCount j ≤ pg then (s, List.replicate 8192 0)
    else imageChunk s (s.job.held.getD { serial := 0 }) j pg c
  | none, _ => (addSomeStk s false 8192, slice (tget s.job.parity (256 * st + c) []) 0 8192)
  | _, none => (s, List.replicate 8192 0)

/-- XOR of two byte strings. -/
def xorBytes (a b : List Byte) : List Byte := (a.zip b).map fun x => x.1 ^^^ x.2

/-- Send a partial result on: to the next survivor, or to the replacement. The chain position is that of the sender, from 0. -/
def sendRebuild (s : State) (lost st c pos : Nat) (d : List Byte) : State :=
  let p := parityGroup s
  let ch := chainOf p.members.length lost st
  let dst := BitVec.ofNat 16 (nth p.members (ch.getD (pos + 1) lost))
  let serial := match s.job.held with | some h => h.serial | none => 0
  sendTxn s 0x39 1 dst (BitVec.ofNat 64 serial) (BitVec.ofNat 64 (st + c <<< 32 + pos <<< 40)) d .keep

/-- A lost member's node is up again with a new incarnation: the first survivor of each stripe starts its chain (R476). -/
def startRebuild (s : State) (n : NodeId) : State :=
  let p := parityGroup s
  let g := p.members.length
  match p.members.findIdx? (· = n.toNat) with
  | none => s
  | some l =>
    if l = p.rank || s.job.st ≠ 2 then s
    else ((List.range (stripeCount s)).filter fun st => (chainOf g l st).head? = some p.rank).foldl (fun s st =>
      (List.range 256).foldl (fun s c => let (s, d) := survivorChunk s st c; sendRebuild s l st c 0 d) s) s

/-- A member is known to be lost (R456): the job is held once for each node and incarnation. -/
def memberLost (s : State) (n : NodeId) (inc : BitVec 32) : State :=
  if s.job.lostSet.contains (n, inc) || s.job.lostOld.contains (n, inc) then s
  else
    let s := holdTheJob { s with job := { s.job with lost := n, lostSet := s.job.lostSet ++ [(n, inc)] } }
    if (peerOf s n.toNat).known && inc < (peerOf s n.toNat).inc then startRebuild s n else s

/-- This device is a replacement with nothing rebuilt (R476): it holds an image of that serial, whose parity generation no transaction names (log
entry 87). -/
def beginRebuild (s : State) (serial : Nat) : State :=
  let h : Snap := { serial := serial, gen := bit (Config.freeValue s.free).toNat 0 }
  let j := { s.job with st := if s.job.st = 5 then 5 else 4, total := stripeCount s, rblt := [], serial := serial }
  freshFree { s with job := { j with held := some h, gen := h.gen } }

/-- A REBUILD arrives (R476): a survivor adds its chunk and passes it on; the replacement writes the result in place, so that its live pages are the
held image. -/
def takeRebuild (s : State) (t : Txn) : State :=
  let p := parityGroup s
  let g := p.members.length
  let st := bits t.b.toNat 0 32
  let c := bits t.b.toNat 32 8
  let pos := bits t.b.toNat 40 8
  if s.cfg.conf.job.isNone || g < 2 then s
  else if pos + 2 = g then
    let s := if 4 ≤ s.job.st && s.job.held.isSome then s else beginRebuild s t.a.toNat
    let n := ((s.job.rblt.find? (·.1 = st)).map (·.2)).getD 0
    let rb := s.job.rblt.filter (fun x => x.1 ≠ st) ++ [(st, min 256 (n + 1))]
    let s := { s with job := { s.job with rblt := rb, serial := t.a.toNat } }
    match pageIn g p.rank st, s.cfg.conf.job with
    | some pg, some j => if pg < pageCount j then store (tally s 3 true (pageBase j pg + 8192 * c) t.body.length) (pageBase j pg + 8192 * c) t.body else s
    | none, _ => let s := addSomeStk s true 8192; { s with job := { s.job with parity := tput s.job.parity (256 * st + c) (slice t.body 0 8192) [] } }
    | _, none => s
  else
    let src := p.members.findIdx? (· = t.src.toNat)
    match src with
    | none => s
    | some sr =>
      let fits := (List.range g).filter fun l => (chainOf g l st)[pos]? = some sr && (chainOf g l st)[pos + 1]? = some p.rank
      let known (l : Nat) : Bool := s.job.lostSet.any fun x => some x.1.toNat = p.members[l]?
      match (fits.find? known).or fits.head? with
      | some l => let (s, d) := survivorChunk s st c; sendRebuild s l st c (pos + 1) (xorBytes (slice t.body 0 8192) d)
      | none => s

/-! ### Resume, release, replay (R477 to R481) -/

/-- The lost ranks that are neither up again nor out of the committed job group. -/
def stillLost (s : State) : List NodeId :=
  ((s.job.lostSet.map Prod.fst).eraseDups).filter fun n =>
    (jobMembers s).contains n.toNat && !((peerOf s n.toNat).known && s.job.lostSet.all fun x => x.1 ≠ n || x.2 < (peerOf s n.toNat).inc)

/-- Poison every own protected page that could not be rebuilt (R479). -/
def poisonLost (s : State) : State :=
  match s.cfg.conf.job with
  | none => s
  | some j =>
    let p := parityGroup s
    let g := p.members.length
    if s.job.st < 4 || s.job.total = 0 then s
    else ((List.range (pageCount j)).filter fun pg => !(s.job.rblt.any fun x => x.1 = stripeOf g p.rank pg && x.2 = 256)).foldl
      (fun s pg => poison s (pageBase j pg) page) s

/-- Send RESTORE to every member of the job group (R477). -/
def sendRestore (s : State) (op : Nat) : State :=
  let me := s.cfg.conf.node
  let s := dropNew s
  toJob { s with job := { s.job with ask := 0, restores := s.job.restores ++ [(me, op)] } } 0x3A (BitVec.ofNat 64 s.job.serial) (BitVec.ofNat 64 op) []

/-- Let a resume go on (R477 to R479): once this member's own condition holds it sends RESTORE, where the host's write has not, and the job runs
once every member has. -/
def goResume (s : State) : State :=
  if s.job.restores = [] && s.job.ask = 0 then s
  else
    let rel := s.job.restores.any (·.2 = 2)
    let ready := s.job.st = 2 || s.job.st = 4 || s.job.st = 5
    if !ready || (!rel && (s.job.st = 5 || rebuilding s || stillLost s ≠ [])) then s
    else
      let s := if s.job.restores.any (·.1 = s.cfg.conf.node) then s else sendRestore s (if rel then 2 else 1)
      if (jobMembers s).all fun n => s.job.restores.any fun r => r.1.toNat = n then
        let s := if rel then poisonLost s else s
        let p0 := match s.cfg.conf.job with | some j => j.p0 | none => 0
        let drop := decide ((jobMembers s).length < p0)
        dropStep { s with job := { s.job with st := 1, restores := [], ask := 0, lostSet := [], lostOld := s.job.lostOld ++ s.job.lostSet, rblt := [], total := 0, drop := drop } }
      else s

/-- RESTORE from a member (R477, R479, R481): replay holds the job here too; a member that never held it is a replacement with nothing
rebuilt. A replacement sends its RESTORE once its rebuild is complete, so that one brings its rank back. -/
def takeRestore (s : State) (t : Txn) : State :=
  let op := bits t.b.toNat 0 2
  if s.cfg.conf.job.isNone then s
  else if op = 3 then holdTheJob { s with job := { s.job with replay := true } }
  else if op = 0 then s
  else if s.job.st < 2 && s.job.held.isSome then s
  else
    let s := if 2 ≤ s.job.st then s else { s with job := { s.job with st := 4, total := stripeCount s, rblt := [] } }
    let up (x : NodeId × BitVec 32) : Bool := op = 1 && x.1 = t.src
    goResume { s with job := { s.job with restores := s.job.restores ++ [(t.src, op)], lostSet := s.job.lostSet.filter fun x => !up x,
                                          lostOld := s.job.lostOld ++ s.job.lostSet.filter up } }

/-- A job is held (R483). -/
def jobHeld (s : State) : Bool := 2 ≤ s.job.st

/-- A write to RAS_JOB_CTL (R477, R479, R481, R483). -/
def jobCtl (s : State) (op : Nat) : State :=
  let err : State := { s with job := { s.job with wrErr := true } }
  match op with
  | 1 =>
    if !jobHeld s || s.job.st = 5 then err
    else if rebuilding s then { s with job := { s.job with ask := 1 } } else goResume (sendRestore s 1)
  | 2 => if !jobHeld s then err else goResume (sendRestore s 2)
  | 3 =>
    if s.cfg.conf.job.isNone then err
    else holdTheJob { (toJob s 0x3A (BitVec.ofNat 64 s.job.serial) 3 []) with job := { s.job with replay := true } }
  | _ => if jobHeld s then s else err

/-! ### Escorts (R449 to R460) -/

/-- The slot of an escorted node. -/
def escSlotIx (s : State) (n : NodeId) : Option Nat := (s.esc.slots.find? fun x => x.2.node = n && x.2.st ≠ 0).map (·.1)

/-- An escort's slot. -/
def escSlot (s : State) (i : Nat) : EscSlot := tget s.esc.slots i {}

/-- Change a slot. -/
def modSlot (s : State) (i : Nat) (f : EscSlot → EscSlot) : State :=
  { s with esc := { s.esc with slots := tmod s.esc.slots i {} f } }

/-- The slot of a node, taken anew where it has none and one is empty. -/
def takeSlot (s : State) (n : NodeId) (inc : BitVec 32) : State × Option Nat :=
  match escSlotIx s n with
  | some i => (s, some i)
  | none => match (List.range 8).find? fun i => (escSlot s i).st = 0 with
    | some i => (modSlot s i fun _ => { node := n, st := 1, inc := (peerOf s n.toNat).inc, own := inc }, some i)
    | none => (s, none)

/-- Room for one more mirror in the retained pool (R450). -/
def mirrorRoom (s : State) : Bool :=
  let (b, sz) := poolRange s.cfg.conf
  escortBytes s + 1024 ≤ sz && (poolBlocks s).all fun x => x.1 + x.2 + escortBytes s + 1024 ≤ b + sz

/-- MIRROR at the escort (R450, R452). -/
def takeMirror (s : State) (t : Txn) : State × Nat :=
  let st := bits t.a.toNat 0 16
  match takeSlot s t.src t.inc with
  | (s, none) => (s, 0x010E)
  | (s, some i) =>
    let same (x : Nat × W64 × Bool × List Byte) : Bool := x.1 = st && x.2.1 = t.b && !x.2.2.1
    if (escSlot s i).items.any fun x => same x && x.2.2.2 = t.body then (s, 0)
    else if !mirrorRoom s then (s, 0x010E)
    else (modSlot s i fun e => { e with items := e.items.filter (fun x => !same x) ++ [(st, t.b, false, t.body)], own := t.inc }, 0)

/-- WITHDRAW at the escort (R454). -/
def takeWithdraw (s : State) (t : Txn) : State :=
  match escSlotIx s t.src with
  | none => s
  | some i => modSlot s i fun e => { e with items := e.items.filter fun x => !(x.1 = bits t.a.toNat 0 16 && x.2.1 = t.b && !x.2.2.1) }

/-- DONE at the escort (R453): the entry replaces the mirror, and what host software has consumed is freed. -/
def takeDone (s : State) (t : Txn) : State :=
  let st := bits t.a.toNat 0 16
  let next : W64 := BitVec.ofNat 64 (leNat (slice t.body 32 8)) + 1
  match takeSlot s t.src t.inc with
  | (s, none) => s
  | (s, some i) =>
    let f (l : List (Nat × W64 × Bool × List Byte)) : List (Nat × W64 × Bool × List Byte) :=
      (l.filter (fun x => !(x.1 = st && x.2.1 = t.b)) ++ [(st, t.b, true, slice t.body 0 32)]).filter fun x => !(x.1 = st && x.2.1 < next)
    modSlot s i fun e => { e with items := f e.items }

/-- Items of a slot in sequence order within each stream. -/
def sortItems (l : List (Nat × W64 × Bool × List Byte)) : List (Nat × W64 × Bool × List Byte) :=
  l.mergeSort fun x y => x.1 < y.1 || (x.1 = y.1 && x.2.1.toNat ≤ y.2.1.toNat)

/-- The CMD_STRM_CFG value that a transfer carries for a stream of a node: no mirror brings the escort the attributes, so what the fields hold is a
free value of the node and the stream, within their ranges and with Escorted set (log entry 86). -/
def journalCfg (n : NodeId) (st : Nat) : W64 :=
  let v := Config.strmAttrs n.toNat st
  setBits (setBits (v &&& strmMask ||| 2) 8 4 (4 + bits v.toNat 8 4 % 9)) 12 4 (4 + bits v.toNat 12 4 % 7)

/-- Send what the escort holds (R460); the first JOURNAL of a stream carries its attributes. -/
def sendJournals (s : State) (n : NodeId) (l : List (Nat × W64 × Bool × List Byte)) : State :=
  (l.foldl (fun (acc : State × List Nat) x =>
    let (s, seen) := acc
    let first := !seen.contains x.1
    let cfg := if first then natLe 8 (journalCfg n x.1).toNat else []
    (sendTxn s 0x38 1 n (BitVec.ofNat 64 (x.1 + (b2n x.2.2.1) <<< 16)) x.2.1 (x.2.2.2 ++ cfg) .keep, x.1 :: seen)) (s, [])).1

/-- ADOPT at the escort (R459, R460): it is answered once every JOURNAL has been acknowledged. -/
def takeAdopt (s : State) (t : Txn) : State × Option (Nat × List Byte) :=
  let n := BitVec.ofNat 16 t.a.toNat
  match escSlotIx s n with
  | none => (s, some (0, []))
  | some i =>
    let e := escSlot s i
    let open_ := s.lnk.sent.any fun x => x.txn.dst = n && x.txn.ttype = 0x38
    if e.st = 3 then
      (if open_ then (s, none) else (modSlot s i fun e => { e with st := 1, own := t.inc }, some (0, [])))
    else if t.inc ≤ e.own then (s, some (0x0607, []))
    else if e.items = [] then (modSlot s i fun e => { e with st := 1, own := t.inc }, some (0, []))
    else (sendJournals (modSlot s i fun e => { e with st := 3 }) t.src (sortItems e.items), none)

/-- The record that an adopted completion entry stands for: its opcode, tag, stream and number (R236). -/
def entryRecord (st : Nat) (q : W64) (b : List Byte) : List Byte :=
  slice (natLe 8 (fieldAt b 0 48 8 + (fieldAt b 0 16 16) <<< 16 + st <<< 32) ++ natLe 8 q.toNat) 0 256

/-- Insert an entry by its number. -/
def insEntry (l : List Entry) (e : Entry) : List Entry :=
  l.takeWhile (fun x => x.seq.toNat < e.seq.toNat) ++ e :: (l.dropWhile fun x => x.seq.toNat < e.seq.toNat).filter (·.seq ≠ e.seq)

/-- The bytes of a JOURNAL's mirror or completion entry. -/
def journalLen (t : Txn) : Nat :=
  let r := slice t.body 0 256
  if bit t.a.toNat 16 then 32 else 256 + 64 * extNeed (rOpc r) (rSub r)

/-- A JOURNAL of an open stream (R460): the stream holds the mirror as accepted or the entry as done. -/
def keepJournal (s : State) (t : Txn) : State :=
  let st := bits t.a.toNat 0 16
  let isEntry := bit t.a.toNat 16
  let r := slice t.body 0 256
  let e : Entry :=
    if isEntry then
      let b := slice t.body 0 32
      { seq := t.b, st := .done, bytes := entryRecord st t.b b, status := BitVec.ofNat 16 (fieldAt b 0 0 16),
        nrep := BitVec.ofNat 64 (wordAt b 16), foff := fieldAt b 24 0 16, aux := BitVec.ofNat 32 (fieldAt b 24 16 32), ran := true,
        snap := some 0 }
    else captured s st { seq := t.b, st := .accepted, bytes := r, ext := slice t.body 256 (64 * extNeed (rOpc r) (rSub r)) }
  let s := modStrm s st fun x =>
    { x with journal := insEntry x.journal e, nseq := if x.nseq ≤ t.b then t.b + 1 else x.nseq }
  awbWrite (modStrm s st fun x => { x with cseq := match x.journal.find? (!·.refused) with | some e => e.seq | none => x.nseq }) st

/-- JOURNAL at the replacement (R460): a stream's first opens it, paused, with the transfer's attributes. One that comes before that, as R358
allows, waits for it (log entry 86). -/
def takeJournal (s : State) (t : Txn) : State :=
  let st := bits t.a.toNat 0 16
  let n := journalLen t
  let s := if n + 8 ≤ t.body.length && !(strmOf s st).opened then
      let s := modStrm s st fun x => { x with cfg := BitVec.ofNat 64 (leNat (slice t.body n 8)) &&& strmMask }
      modStrm (openStream s st) st fun x => { x with paused := true }
    else s
  let mine (x : Txn) : Bool := bits x.a.toNat 0 16 = st
  if !(strmOf s st).opened then { s with esc := { s.esc with early := s.esc.early ++ [t] } }
  else
    let l := s.esc.early.filter mine ++ [t]
    l.foldl keepJournal { s with esc := { s.esc with early := s.esc.early.filter fun x => !mine x } }

/-- ADOPT goes to the escort (R460). -/
def sendAdopt (s : State) : State :=
  sendTxn { s with esc := { s.esc with denied := false } } 0x37 1 s.cfg.conf.escort (BitVec.ofNat 64 s.cfg.conf.node.toNat) 0 [] .adopt

/-- The escort check of a HELLO (R449): 1 accepted, 2 same feed, 3 undeclared. -/
def escCheck (own other : BitVec 16) : Nat := if own = 0 || other = 0 then 3 else if own = other then 2 else 1

/-- HELLO from a node (R356, R449, R454, R476). An ADOPT that the escort answered with 0x0607 goes out anew (log entry 82). -/
def takeHello (s : State) (t : Txn) : State :=
  if !answers s then s
  else
    let n := t.src.toNat
    let p := peerOf s n
    if p.known && t.inc < p.inc then s
    else
      let fresh := !p.known || p.inc < t.inc
      let s := heard s t
      let s := modPeer s n fun p =>
        { p with known := true, inc := t.inc, feed := BitVec.ofNat 16 t.a.toNat, domain := BitVec.ofNat 16 (t.a.toNat >>> 16),
                 ports := BitVec.ofNat 8 (t.a.toNat >>> 32), answers := if fresh then [] else p.answers, lost := false }
      let s := match escSlotIx s t.src with | some i => modSlot s i fun e => { e with inc := t.inc } | none => s
      let c := s.cfg.conf
      let s := if c.escEn && c.escort = t.src then
          escRefresh { s with esc := { s.esc with st := escCheck c.feed (BitVec.ofNat 16 t.a.toNat), feed := BitVec.ofNat 16 t.a.toNat } }
        else s
      let s := if c.escEn && c.escort = t.src && s.esc.denied then sendAdopt s else s
      let s := if s.esc.former.contains t.src then
          sendTxn s 0x3B 1 t.src (BitVec.ofNat 64 c.node.toNat) 0 [] .release else s
      if fresh && s.job.lostSet.any fun x => x.1 = t.src && x.2 < t.inc then startRebuild s t.src else s

end Sys2Proof.Machine
end

