-- ==== Sys2Proof/Machine/Txns.lean ====
section
/-! DEFINITION. The rows of Scezer Link transactions, collectives, escorts and snapshots: what each arrival, answer and timer does
(R354 to R382, R451 to R481). -/

namespace Sys2Proof.Machine

/-! ### Collective and snapshot records -/

/-- ALLREDUCE (R367 to R370) -/
def execAllreduce (st : StreamId) (ph : Phase) (s : State) : Res := .next (recRow s st ph 0x2000 runColl)
/-- REDUCE_SCATTER (R369) -/
def execReduceScatter (st : StreamId) (ph : Phase) (s : State) : Res := .next (recRow s st ph 0x2100 runColl)
/-- ALLGATHER (R369) -/
def execAllgather (st : StreamId) (ph : Phase) (s : State) : Res := .next (recRow s st ph 0x2200 runColl)
/-- DISPATCH (R378) -/
def execDispatch (st : StreamId) (ph : Phase) (s : State) : Res := .next (recRow s st ph 0x2300 runColl)
/-- COMBINE (R380) -/
def execCombine (st : StreamId) (ph : Phase) (s : State) : Res := .next (recRow s st ph 0x2400 runColl)
/-- AGREE (R336) -/
def execAgree (st : StreamId) (ph : Phase) (s : State) : Res := .next (recRow s st ph 0x3103 runColl)
/-- DIGEST GROUP (R438) -/
def execDigestGroup (st : StreamId) (ph : Phase) (s : State) : Res := .next (recRow s st ph 0x5203 runColl)
/-- SNAP_BEGIN (R468) -/
def execSnapBegin (st : StreamId) (ph : Phase) (s : State) : Res := .next (recRow s st ph 0x5000 runSnapBegin)
/-- SNAP_END (R471) -/
def execSnapEnd (st : StreamId) (ph : Phase) (s : State) : Res := .next (recRow s st ph 0x5100 runSnapEnd)

/-! ### Answers, resends and give-up (R355) -/

/-- HELLO (R356) -/
def execHello (t : Txn) (s : State) : Res := .next (goResume (takeHello s t))

/-- What the answer of a transaction brings. -/
def answered (s : State) (x : Sent) (f : Nat) (body : List Byte) : State :=
  let s := dropSent s x
  match x.why with
  | .none => s
  | .cmd st q => cmdAnswer s st q x f body
  | .mirror st q => if f = 0 then acceptPending s st q else refusePending s st q
  | .withdraw st q => withdrawn s st q
  | .ring ri st => ringAnswer s ri st f
  | .release => { s with esc := { s.esc with former := s.esc.former.erase x.txn.dst } }
  | .page =>
    let k := (bits x.txn.b.toNat 0 32, bits x.txn.b.toNat 32 8)
    match s.job.cur with
    | some sn => if x.txn.a.toNat = sn.serial then
        let l := s.job.sentPages.erase k
        goSnap { s with job := { s.job with sentPages := l, acked := s.job.acked + b2n (!l.any (·.1 = k.1)) } } else s
    | none => s
  | .adopt =>
    let s : State := { s with esc := { s.esc with adopting := false, denied := decide (f ≠ 0) } }
    escRefresh s
  | .keep => s

/-- An answer arrives. In HOLD no record is accepted, so an escort's answer to a MIRROR decides nothing (R51). -/
def takeAnswer (s : State) (t : Txn) (f : Nat) : State :=
  if !answerOk s t then s
  else
    let s := heard s t
    match sentTo s t.src (BitVec.ofNat 32 t.a.toNat) with
    | some x => if inHold s && (match x.why with | .mirror .. => true | _ => false) then s else answered s x f t.body
    | none => s

/-- ACK (R355) -/
def execAck (t : Txn) (s : State) : Res := .next (takeAnswer s t (bits t.b.toNat 0 16))
/-- READ_DATA (R354, R357) -/
def execReadData (t : Txn) (s : State) : Res := .next (takeAnswer s t (bits t.b.toNat 0 16))
/-- PUSH_RESP (R212) -/
def execPushResp (t : Txn) (s : State) : Res := .next (takeAnswer s t (bits t.b.toNat 0 16))

/-- Send a transaction again, with the same number, on the next plane up at both ends (R355). -/
def resendTxn (s : State) (x : Sent) : State :=
  match planeFrom (planesTo s x.txn.dst.toNat) (x.txn.plane.val + 1) with
  | none => s
  | some p =>
    let t := { x.txn with plane := Fin.ofNat 8 p }
    let l := s.lnk.sent.map fun y => if y = x then { y with txn := t } else y
    emitOn { s with lnk := { s.lnk with sent := l, retx := sat 0xFFFFFFFF (s.lnk.retx + 1) } } p t

/-- UNREACH (R351, R355): the transaction to that node goes out again at once. -/
def execUnreach (t : Txn) (s : State) : Res :=
  .next (if !(s.pwr.phase = .on) || bits t.b.toNat 0 16 ≠ s.cfg.conf.node.toNat then s
    else match sentTo s t.src (BitVec.ofNat 32 t.a.toNat) with | some x => resendTxn s x | none => s)

/-- E2E_TIMEOUT (R355) -/
def execE2eTimeout (dst : NodeId) (eseq : BitVec 32) (s : State) : Res :=
  .next (match sentTo s dst eseq with
    | some x => if (unanswered s dst).findIdx (· = x) < 1024 then resendTxn s x else s
    | none => s)

/-- A command is a collective of an Escorted stream that waits for a lost member of the held job (R10): the hold keeps it. -/
def heldColl (s : State) (st : Nat) (q : W64) (n : NodeId) : Bool :=
  jobHeld s && escorted (strmOf s st) && (collOf s st q).isSome && s.job.lostSet.any (·.1 = n)

/-- E2E_GIVE_UP (R355, R383): a transaction sent for a command that still waits for its answer fails it, unless the hold of R10 keeps it. What no
command sent goes on (log entry 82); of an ADOPT that is given up, the rest of the streams no longer waits. A rebuild of retained state holds it up
(R42). -/
def execE2eGiveUp (dst : NodeId) (eseq : BitVec 32) (s : State) : Res :=
  .next (match sentTo s dst eseq with
    | none => s
    | some x =>
      if s.ser.rebuild then s else
      let up (s : State) : State := dropSent { s with lnk := { s.lnk with giveup := sat 0xFFFF (s.lnk.giveup + 1) } } x
      match x.why with
      | .cmd st q => if heldColl s st q dst then s else if (match cmdOf s st q with | some e => e.waits.contains (dst, eseq) | none => false) then failCmd (up s) st q 0x0601 else up s
      | .ring ri st => ringAnswer (up s) ri st 1
      | .adopt => { s with esc := { s.esc with adopting := false } }
      | .none => up s
      | .keep => s
      | .mirror _ _ => s
      | .withdraw _ _ => s
      | .release => s
      | .page => s)

/-! ### Collective transactions (R361, R369 to R380) -/

/-- SEG (R369) -/
def execSeg (t : Txn) (s : State) : Res := .next (receiveAck s t fun s => (deliver s t, 0))
/-- ABORT (R371) -/
def execAbort (t : Txn) (s : State) : Res := .next (receiveAck s t fun s => (deliver s t, 0))
/-- COUNT (R378) -/
def execCount (t : Txn) (s : State) : Res := .next (receiveAck s t fun s => (deliver s t, 0))
/-- ACCEPT (R378) -/
def execAccept (t : Txn) (s : State) : Res := .next (receiveAck s t fun s => (deliver s t, 0))
/-- CARAVAN (R379) -/
def execCaravan (t : Txn) (s : State) : Res := .next (receiveAck s t fun s => (deliver s t, 0))
/-- RETURN (R380) -/
def execReturnRows (t : Txn) (s : State) : Res := .next (receiveAck s t fun s => (deliver s t, 0))

/-- GROUP_COMMIT (R360) -/
def execGroupCommit (sec : Bool) (s : State) : Res := .next (hostRow s sec fun s => goResume (commitGroup s s.selH.grp.toNat))
/-- GROUP_INVALIDATE (R363) -/
def execGroupInvalidate (sec : Bool) (s : State) : Res := .next (hostRow s sec fun s => invalidateGroup s s.selH.grp.toNat)

/-! ### Escorts (R451 to R460) -/

/-- MIRROR (R452) -/
def execMirror (t : Txn) (s : State) : Res := .next (receiveAck s t fun s => takeMirror s t)
/-- WITHDRAW (R454) -/
def execWithdraw (t : Txn) (s : State) : Res := .next (receiveAck s t fun s => (takeWithdraw s t, 0))
/-- DONE (R453) -/
def execDone (t : Txn) (s : State) : Res := .next (receiveAck s t fun s => (takeDone s t, 0))
/-- BEAT (R455): it is heard, and neither numbered nor answered. -/
def execBeat (t : Txn) (s : State) : Res := .next (if answers s then heard s t else s)
/-- ADOPT (R460) -/
def execAdopt (t : Txn) (s : State) : Res := .next (receive s t fun s => takeAdopt s t)
/-- JOURNAL (R460) -/
def execJournal (t : Txn) (s : State) : Res := .next (receiveAck s t fun s => (takeJournal s t, 0))

/-- RELEASE (R454): every mirror and entry held for the sender is discarded. -/
def execRelease (t : Txn) (s : State) : Res :=
  .next (receiveAck s t fun s => (match escSlotIx s t.src with | some i => modSlot s i fun _ => {} | none => s, 0))

/-- The nodes that BEAT goes to (R455). -/
def beatNodes (s : State) : List Nat :=
  let me := s.cfg.conf.node.toNat
  ((if s.cfg.conf.escEn then [s.cfg.conf.escort.toNat] else []) ++ ((s.esc.slots.filter (·.2.st ≠ 0)).map fun x => x.2.node.toNat)
    ++ (parityGroup s).members).eraseDups.filter (· ≠ me)

/-- BEAT_TIMER (R356, R455): HELLO goes before the first transaction to a node. -/
def execBeatTimer (s : State) : Res :=
  .next (if !answers s then s else (beatNodes s).foldl (fun s n => sendAnswer s (mkTxn s 0x33 0 (BitVec.ofNat 16 n) 0 0 0 [])) s)

/-- Fire the vector of RAS_IRQ (R446, R456). -/
def fireRas (s : State) : State := if bit s.ras.irq.toNat 11 then fire s (bits s.ras.irq.toNat 0 11) else s

/-- LOSS_TIMEOUT (R455, R456): nothing has arrived from a node for the loss timeout while a port is up. -/
def declareLost (s : State) (n : NodeId) : State :=
  if !answers s || noPort s then s
  else
    let was := (peerOf s n.toNat).lost
    let s := modPeer s n.toNat fun p => { p with lost := true }
    let s := match escSlotIx s n with
      | some i => if (escSlot s i).st = 1 || (escSlot s i).st = 3 then fireRas (modSlot s i fun e => { e with st := 2 }) else s
      | none => s
    match s.cfg.conf.job with
    | none => s
    | some j =>
      let inc := (peerOf s n.toNat).inc
      if (parityGroup s).members.contains n.toNat && n ≠ s.cfg.conf.node && !was then
        memberLost (toJob s 0x34 (BitVec.ofNat 64 (n.toNat + inc.toNat <<< 32)) (BitVec.ofNat 64 j.jobGroup) []) n inc
      else s

/-- LOSS_TIMEOUT (R455, R456) -/
def execLossTimeout (n : NodeId) (s : State) : Res := .next (declareLost s n)

/-- LOST (R456, R457): its own name and incarnation move the device to HOLD; a member of its own job holds the job. -/
def takeLost (s : State) (t : Txn) : State :=
  let n := BitVec.ofNat 16 t.a.toNat
  let inc := BitVec.ofNat 32 (t.a.toNat >>> 32)
  if n = s.cfg.conf.node then (if inc = incarnation s then enterHold s else s)
  else match s.cfg.conf.job with
    | some j => if j.jobGroup = bits t.b.toNat 0 12 then memberLost s n inc else s
    | none => s

/-- LOST (R456, R457) -/
def execLost (t : Txn) (s : State) : Res := .next (receiveAck s t fun s => (takeLost s t, 0))

/-- PORTS_DOWN_TIMEOUT (R458) -/
def execPortsDownTimeout (s : State) : Res :=
  .next (if s.pwr.phase = .on && s.cfg.entered && noPort s && s.lnk.downAt.isSome
      && (s.cfg.conf.escEn || s.esc.slots ≠ [] || s.cfg.conf.job.isSome) then enterHold s else s)

/-! ### Snapshots and rebuild (R470 to R481) -/

/-- PAGE at the holder of a stripe (R470): XORed into the parity of the snapshot in progress, or of the one to come, which another member may have
begun while this one's is not over. -/
def takePage (s : State) (t : Txn) : State :=
  let k := t.a.toNat
  let i := 256 * bits t.b.toNat 0 32 + bits t.b.toNat 32 8
  let add (p : Tbl (List Byte)) : Tbl (List Byte) := tput p i (xorBytes (slice (tget p i []) 0 8192) (slice t.body 0 8192)) []
  let cur := match s.job.cur with | some sn => sn.serial | none => s.job.serial + 1
  let rmw (s : State) : State := addSomeStk (addSomeStk s false 8192) true 8192
  if s.cfg.conf.job.isNone then s
  else if k = cur then let s := rmw s; { s with job := { s.job with parNew := add s.job.parNew } }
  else if k = cur + 1 then let s := rmw s; { s with job := { s.job with parNext := add s.job.parNext } }
  else s

/-- PAGE (R470) -/
def execPage (t : Txn) (s : State) : Res := .next (receiveAck s t fun s => (takePage s t, 0))

/-- SNAPSYNC (R471) -/
def takeSync (s : State) (t : Txn) : State :=
  let k := t.a.toNat
  if s.cfg.conf.job.isNone || !(jobMembers s).contains t.src.toNat then s
  else if bit t.b.toNat 1 then goSnap { s with job := { s.job with mans := s.job.mans ++ [(k, t.src, [])] } }
  else if bit t.b.toNat 0 then goSnap { s with job := { s.job with mans := s.job.mans ++ [(k, t.src, slice t.body 0 384)] } }
  else s

/-- SNAPSYNC (R471) -/
def execSnapsync (t : Txn) (s : State) : Res := .next (receiveAck s t fun s => (takeSync s t, 0))
/-- REBUILD (R476) -/
def execRebuild (t : Txn) (s : State) : Res := .next (receiveAck s t fun s => (goResume (takeRebuild s t), 0))
/-- RESTORE (R477) -/
def execRestore (t : Txn) (s : State) : Res := .next (receiveAck s t fun s => (takeRestore s t, 0))

/-- JOB_RESUME (R477) -/
def execJobResume (sec : Bool) (s : State) : Res := .next (hostRow s sec fun s => jobCtl s 1)
/-- JOB_RELEASE (R479) -/
def execJobRelease (sec : Bool) (s : State) : Res := .next (hostRow s sec fun s => jobCtl s 2)
/-- JOB_REPLAY (R481) -/
def execJobReplay (sec : Bool) (s : State) : Res := .next (hostRow s sec fun s => jobCtl s 3)

end Sys2Proof.Machine
end

