-- ==== Sys2Proof/Machine/Evidence.lean ====
section
/-! DEFINITION. Evidence: the evidence queue and TRACE (R387 to R398), seals and the evidence log (R399 to R406), SEAL (R403). -/

namespace Sys2Proof.Machine

/-! ### Seals (R402 to R406) -/

/-- The Merkle tree hash of some leaves (R404): RFC 6962 with SHA-384. -/
def merkle : Nat → List (List Byte) → List Byte
  | 0, _ => sha384 []
  | n + 1, l =>
    match l with
    | [] => sha384 []
    | [x] => sha384 ([0] ++ x)
    | _ =>
      let k := 2 ^ (clog2 l.length - 1)
      sha384 ([1] ++ merkle n (l.take k) ++ merkle n (l.drop k))

/-- The measurement of an image: SHA-384 of all but its last 96 bytes (R516, R540). -/
def measure (img : List Byte) : List Byte := sha384 (img.take (img.length - 96))

/-- The security engine on IO1 can sign (R50, R406). -/
def signOk (s : State) : Bool := s.ras.io1

/-! ### Keys (R535 to R539) -/

/-- The root secret (R537), as the security engine reconstructs it; nothing returns it. -/
def rootSecret (s : State) : List Byte := natBe 48 (Config.pufRoot s.flash.helper).toNat

/-- "ZW-" and a key's name, in ASCII. -/
def keyLabel (l : List Byte) : List Byte := [0x5A, 0x57, 0x2D] ++ l

/-- The identity key, IDK (R538). -/
def idKey (s : State) : Nat := keyFrom (rootSecret s) (keyLabel [0x49, 0x44, 0x4B]) []
/-- The attestation key, AK (R538). -/
def akKey (s : State) : Nat := keyFrom (rootSecret s) (keyLabel [0x41, 0x4B]) s.sec.akCtx
/-- The evidence key in force, EVK (R538). -/
def evKey (s : State) : Nat := keyFrom (rootSecret s) (keyLabel [0x45, 0x56, 0x4B]) s.sec.evkCtx
/-- The RPMC root key (R535, R538). -/
def rpmcKey (s : State) : List Byte := kdf384 (rootSecret s) (keyLabel [0x52, 0x50, 0x4D, 0x43]) [] 1

/-- The flash's counters authenticate (R535, R536): it holds this module's RPMC root key. -/
def rpmcOk (s : State) : Bool := match s.flash.rpmc with | none => true | some k => decide (k.length = 48) && decide (k = rpmcKey s)

/-- The key identifier of the evidence key in force (R405). -/
def keyId (s : State) : List Byte := sha384 (pubBytes (evKey s))

/-- A signature as two 48-byte little-endian integers. -/
def sigBytes (x : Nat × Nat) : List Byte := natLe 48 x.1 ++ natLe 48 x.2

/-- The certificate of a key under the identity key (R538): the opaque layout of the key, of the names in it and of the signature (log entry 11). -/
def certOf (s : State) (slot : Nat) (key : Nat) (names : List Byte) : List Byte :=
  let body := slot :: (pubBytes key ++ names).map BitVec.toNat
  let g := ecSign (idKey s) (sha384 (Config.layout 4 body))
  Config.layout 3 (body ++ [g.1, g.2])

/-- The certificates of the attestation key, and of the evidence key, which names the owner digest and the epoch (R538, R539). -/
def leafCert (s : State) (slot : Nat) : List Byte := if slot = 0 then certOf s 0 (akKey s) [] else certOf s 1 (evKey s) s.sec.evkCtx

/-- A seal over a batch of records (R405, R406). -/
def makeSeal (s : State) (batch : List (List Byte)) : List Byte :=
  let v := s.evd
  let first := wordAt (batch.headD []) 8
  let gap := match v.lastSeal with | some t => sat 0xFFFFFFFF (s.clock - t) | none => 0xFFFFFFFF
  let c := s.cfg.conf
  let head := slice (natLe 8 (0x0102 + (incarnation s).toNat <<< 32) ++ natLe 8 v.sserial ++ natLe 8 first ++ natLe 8 (batch.length + gap <<< 32)
    ++ natLe 8 (c.node.toNat + c.domain.toNat <<< 16) ++ natLe 8 0 ++ merkle 14 batch ++ slice v.prev 0 48 ++ keyId s
    ++ measure (activePlane s).fw) 0 256
  slice (head ++ sigBytes (ecSign (evKey s) (sha384 head))) 0 1024

/-- Seal the unsealed records (R402): none while none is unsealed or the engine cannot sign. -/
def sealNow (s : State) : State :=
  let v := s.evd
  if v.unsealed = 0 || !signOk s then s
  else
    let n := min 4096 v.unsealed
    let batch := (v.queue.drop (v.queue.length - v.unsealed)).take n
    let b := makeSeal s batch
    { s with evd := { v with unsealed := v.unsealed - n, sealed := v.sealed ++ [(n, b)], sserial := v.sserial + 1, prev := sha384 (b.take 256),
                             lastSeal := some s.clock, oldest := s.clock } }

/-- Add a record to the queue (R398, R402): the 4,096th unsealed one makes a seal. -/
def pushRecord (s : State) (r : List Byte) : State :=
  let v := s.evd
  let s := { s with evd := { v with queue := v.queue ++ [r], unsealed := v.unsealed + 1, serial := v.serial + 1,
                                    oldest := if v.unsealed = 0 then s.clock else v.oldest } }
  if 4096 ≤ s.evd.unsealed then sealNow s else s

/-- SEAL_INTERVAL (R402) -/
def execSealInterval (s : State) : Res := .next (if s.pwr.phase = .on && consuming s then sealNow s else s)

/-- The log has room and can be written (R399); one that does not lie in the general region or HBM cannot (log entry 125). -/
def logRoom (s : State) : Bool :=
  let v := s.evd
  bit v.cfg.toNat 6 && (v.tail - v.head).toNat < 2 ^ bits v.cfg.toNat 0 5
    && (if bit v.cfg.toNat 5 then openRange s.cfg.conf v.base.toNat (1024 * 2 ^ bits v.cfg.toNat 0 5) else hostReady s)

/-- EVIDENCE_LOG_WRITE (R399, R412): the next slot of the first sealed batch; its seal ends the batch. -/
def writeLog (s : State) : State :=
  let v := s.evd
  match v.sealed with
  | [] => s
  | (n, sl) :: r =>
    if !logRoom s || !(s.pwr.phase = .on && consuming s) then s
    else
      let d := if v.logPos < n then v.queue.getD v.logPos [] else sl
      let a := v.base.toNat + 1024 * (v.tail.toNat % 2 ^ bits v.cfg.toNat 0 5)
      let s := if bit v.cfg.toNat 5 then storeCtl s a d else hostWrite s a d
      let s := { s with evd := { v with tail := v.tail + 1, logPos := v.logPos + 1 } }
      if v.logPos < n then s
      else
        let s := { s with evd := { s.evd with queue := s.evd.queue.drop n, sealed := r, logPos := 0 } }
        if bit v.cfg.toNat 7 then fire s (bits v.cfg.toNat 8 11) else s

/-- EVIDENCE_LOG_WRITE (R399) -/
def execEvidenceLogWrite (s : State) : Res := .next (writeLog s)

/-- After a warm reset or a handover every slot of the batch being written is written again with its bytes (R400): those that the host has not yet read
past by the writes that follow, from the first of them on; a slot behind the head at once. -/
def rewindLog (s : State) : State :=
  let v := s.evd
  let n := min v.logPos (v.tail - v.head).toNat
  let s := (List.range (v.logPos - n)).foldl (fun s i =>
    let a := v.base.toNat + 1024 * ((v.tail - BitVec.ofNat 32 (v.logPos - i)).toNat % 2 ^ bits v.cfg.toNat 0 5)
    let d := v.queue.getD i []
    if bit v.cfg.toNat 5 then storeCtl s a d else if hostReady s then hostWrite s a d else s) s
  { s with evd := { s.evd with tail := v.tail - BitVec.ofNat 32 n, logPos := v.logPos - n } }

/-! ### TRACE and SEAL -/

/-- Queue the records of a TRACE's jobs in list order, as far as they are formed and the queue has room (R389, R398). An entry out of range is
counted in aux. -/
def flushTrace (st : Nat) (q : W64) : List Nat → State → State
  | [], s => modCmd s st q fun e => { e with ran := true, work := [], aux := BitVec.ofNat 32 (sat 0xFFFFFFFF e.aux.toNat) }
  | i :: r, s =>
    match cmdOf s st q with
    | none => s
    | some e =>
      match tget e.work i (.words []) with
      | .record [] _ => flushTrace st q r (modCmd s st q fun e => { e with staged := i :: e.staged, aux := e.aux + 1 })
      | .record b rep =>
        if 8192 ≤ s.evd.queue.length then s
        else
          let s := pushRecord s (b.take 8 ++ natLe 8 s.evd.serial ++ b.drop 16)
          flushTrace st q r (modCmd s st q fun e => { e with staged := i :: e.staged, nrep := addRep e.nrep (repOf rep) })
      | _ => s

/-- Queue what a TRACE's jobs have formed. -/
def goTrace (s : State) (st : Nat) (q : W64) : State :=
  match cmdOf s st q with
  | none => s
  | some e =>
    if e.ran || e.stop.isSome then s
    else flushTrace st q ((List.range (fieldAt e.rx 0x208 0 32)).filter fun i => !e.staged.contains i) s

/-- TRACE runs (R390 to R398): its jobs that no tile has taken to their end, then its records in list order. -/
def runTrace (s : State) (st : Nat) (q : W64) (e : Entry) : State :=
  if e.ran || e.stop.isSome then s
  else if !signOk s then modCmd (dropBatch s st q) st q fun e => e.finish 0x0801
  else match e.plan with
    | none => s
    | some p =>
      let s := if usable s = 0 then s else (List.range (fieldAt e.rx 0x208 0 32)).foldl (fun s j =>
        match cmdOf s st q with
        | some e => if e.stop.isSome || e.drained.contains j || !jobReady s st e p j || isHeld s st q j then s else tallyJob (traceJob s st e p j)
        | none => s) s
      let s := goTrace s st q
      match cmdOf s st q with
      | some e => if e.stop.isSome then withdraw s st q else if e.ran then dropBatch s st q else s
      | none => s

/-- TRACE (R390) -/
def execTrace (st : StreamId) (ph : Phase) (s : State) : Res := .next (recRow s st ph 0x6000 runTrace)

/-- SEAL runs (R403): it seals at its start, and ends once every record queued before it is in the log with its seal. -/
def runSeal (s : State) (st : Nat) (q : W64) (e : Entry) : State :=
  if e.ran then s
  else if !signOk s then modCmd s st q fun e => e.finish 0x0801
  else
    let (s, bound) := match e.log.head? with
      | some x => (s, x.1)
      | none => (modCmd (sealNow (sealNow s)) st q fun e => { e with log := [(s.evd.serial, [])] }, s.evd.serial)
    if s.evd.queue.any fun r => wordAt r 8 < bound then s
    else
      let written := s.evd.sserial - s.evd.sealed.length
      modCmd s st q fun e => { e with ran := true, log := [], aux := if written = 0 then 0xFFFFFFFF else BitVec.ofNat 32 (written - 1) }

/-- SEAL (R403) -/
def execSeal (st : StreamId) (ph : Phase) (s : State) : Res := .next (recRow s st ph 0x6100 runSeal)

end Sys2Proof.Machine
end

