-- ==== Sys2Proof/Machine/Control.lean ====
section
/-! DEFINITION. What the control planes share: the fault service's bookkeeping, sparing (R422 to R428), and the resumption of the
journals (R221, R224, R264). -/

namespace Sys2Proof.Machine

/-- Control firmware runs: the device is powered and past POWERUP (R507). -/
def firmwareOn (s : State) : Bool := s.pwr.phase = .on && s.cfg.st ≠ .powerup

/-- Control firmware runs and the device is not in HOLD (R51, R509). -/
def serviceOn (s : State) : Bool := firmwareOn s && !inHold s

/-- The moments of a list that lie within the last 24 h of operation. -/
def recent (s : State) (l : List Nat) : List Nat := l.filter (s.ras.sec < · + 86400)

/-! ### Sparing (R422 to R428) -/

/-- Write a cluster's sparing record to the flash (R416, R428). -/
def writeMarks (s : State) (c : Nat) : State :=
  let k := cluOf s c
  let sp : BitVec 11 := if k.spare = 15 then 0 else BitVec.ofNat 11 (1 <<< k.spare.toNat)
  let inter := (List.range 11).foldl (fun a b => if (rasOf s (16 * c + b)).st = 5 then a + 2 ^ b else a) 0
  let m : CluMark := { active := ~~~(k.retired ||| sp), retired := k.retired, inter := BitVec.ofNat 11 inter, spare := k.spare, up := k.up }
  { s with flash := { s.flash with marks := tput s.flash.marks c m {} } }

/-- The bit of a slot. -/
def slotBit (t : Nat) : BitVec 11 := BitVec.ofNat 11 (1 <<< (t % 16))

/-- The cluster has a spare that is neither filling nor the tile itself. -/
def hasSpare (s : State) (t : Nat) : Bool :=
  let k := cluOf s (t / 16)
  k.spare ≠ 15 && k.spare.toNat ≠ t % 16 && !k.filling

/-- The cluster's spare starts its fill where there is one (R428 step 2). -/
def startFill (s : State) (t : Nat) : State :=
  let c := t / 16
  if hasSpare s t then
    modRas (modClu s c fun k => { k with filling := true }) (16 * c + (cluOf s c).spare.toNat) fun x => { x with st := 2 }
  else s

/-- A tile is withdrawn for its self-test (R423). -/
def testTile (s : State) (t : Nat) : State :=
  let s := clearTile s t
  let b := slotBit t
  modRas (modClu s (t / 16) fun k => { k with active := k.active &&& ~~~b }) t fun x => { x with st := 3 }

/-- The self-tests after R420 are over once the regulator's and every tile's have ended. -/
def endWithdrawal (s : State) (c : Nat) : State :=
  let k := cluOf s c
  if k.wd && !k.wdReg && (tilesOf c).all (fun t => (rasOf s t).st ≠ 3) then modClu s c fun k => { k with wd := false } else s

/-- A slot is marked retired; a retired spare is no longer the spare. -/
def markRetired (s : State) (t : Nat) : State :=
  let b := slotBit t
  modClu s (t / 16) fun k =>
    { k with active := k.active &&& ~~~b, retired := k.retired ||| b, spare := if k.spare.toNat = t % 16 then 15 else k.spare }

/-- A tile is retired (R428): withdrawn, its spare filling, its self-test started. -/
def retireTile (s : State) (t : Nat) : State := markRetired (startFill (testTile s t) t) t

/-- The action of a retirement: 2 where a spare takes its place, else 3 (R446). -/
def retireAction (s : State) (t : Nat) : Nat := if hasSpare s t then 2 else 3

/-- Tile, stream, tag, job and number of a job, for an event. -/
def evtJob (s : State) (j : TJob) : Option (Nat × Nat × Nat × W64) :=
  if j.ballast then none
  else some (j.st, (match cmdOf s j.st j.seq with | some e => rTag e.bytes | none => 0), j.idx, j.seq)

/-- A cluster's sparing record goes to the flash once the fill of its spare and the self-tests of its retired tiles are over (R428 steps 3 to 5). -/
def recordSparing (s : State) (c : Nat) : State :=
  let k := cluOf s c
  if k.filling || (tilesOf c).any (fun t => bit k.retired.toNat (t % 16) && (rasOf s t).st = 3) then s else writeMarks s c

/-- A verdict on a tile (R422): 1 transient, 2 lasting, 3 checker faulty. A third transient within 24 h is lasting. The self-test runs
whatever the verdict. -/
def judge (s : State) (t det v : Nat) (j : Option (Nat × Nat × Nat × W64)) : State :=
  let tr := recent s (rasOf s t).trans ++ [s.ras.sec]
  if v = 1 && tr.length < 3 then
    testTile (modRas (raise s det 4 1 1 t j) t fun x => { x with trans := tr }) t
  else
    let s := if v = 1 then modRas s t fun x => { x with trans := tr } else s
    retireTile (raiseKept s det 4 (if v = 1 then 2 else v) (retireAction s t) t j) t

/-! ### Resuming the journals (R221, R224, R264) -/

/-- Tile jobs in flight are abandoned; their commands stay running. -/
def abandonJobs (s : State) : State :=
  let til := s.til
  { s with til := { til with srv := [], trn := [],
                             tiles := tmap til.tiles {} fun x => { freshTile x with job := none, reserve := none, granted := false } },
           ras := { s.ras with held := [] } }

/-- Publish again the jobs of a command's current phase that its journal entry does not record as drained (R264). Of a command that a failed audit has
stopped, they are those below the failed job, which had been taken (R162, R263). -/
def republish (s : State) (st : Nat) (e : Entry) : State :=
  match e.plan with
  | none => s
  | some p =>
    if e.refused || e.st ≠ .running || e.ran then s
    else match curPhase p with
      | none => s
      | some ph =>
        let n := match e.stop with | none => availTo s st e p ph | some (.sched i ..) => i | some _ => ph.first
        let idx := ((List.range (n - ph.first)).map (ph.first + ·)).filter fun i => !e.drained.contains i
        if phaseDone e ph || (e.stop.isSome && idx = []) then s
        else
          let b : Batch := ⟨st, e.seq, n, n, idx⟩
          if serving (strmOf s st) then { s with til := { s.til with srv := s.til.srv ++ [b] } }
          else { s with til := { s.til with trn := s.til.trn ++ [b] } }

/-- The transactions that resumption sends again: mirrors, and signals with their original numbers (R221). -/
def resentAtResume (x : Sent) : Bool :=
  match x.why with
  | .mirror .. => true
  | .cmd .. => x.txn.ttype = 0x07
  | _ => false

/-- A running command that issues no tile job resumes by its own rule (R221): logged bytes are written again (R329); a data movement whose
transactions are unanswered and a LOAD_PROGRAM start again from their journal copy, the load with its recorded generation. -/
def resumeEntry (s : State) (st : Nat) (e : Entry) : State :=
  let op := rOpc e.bytes
  if e.refused || e.st ≠ .running then s
  else if op = 0x30 || op = 0x31 then e.log.foldl (fun s l => store (tally s 2 true l.1 l.2.length) l.1 l.2) s
  else if op = 1 || op = 2 || op = 3 then
    (if e.waits = [] then s else modCmd s st e.seq fun e => { e with ran := false, waits := [], log := [] })
  else if op = 0x70 && e.status = 0 then
    let off (b : Bank) : Bank := if b.loading && b.pid.toNat = rProg e.bytes && some b.gen = e.gen then {} else b
    let s := { s with til := { s.til with tiles := tmap s.til.tiles {} fun x => { x with imA := off x.imA, imB := off x.imB } } }
    modCmd s st e.seq fun e => { e with ran := false }
  else s

/-- The workspace, the staging region and the device-internal region are discarded (R280): jobs whose results lie there run again, their blocks are
staged again, the plan registers count them anew when they drain (R271), and of the program images those stay that an unfinished command is bound to (log entry 118). -/
def loseScratch (s : State) : State :=
  let lost (e : Entry) (j : Nat) : Bool := (e.work.any (·.1 = j) || e.copies.any (·.1 = j)) && !(rOpc e.bytes = 0x60 && e.staged.contains j)
  let redo (e : Entry) : Entry :=
    if e.refused || e.st ≠ .running then e
    else
      let lost := lost e
      let gone := e.drained.filter lost
      let e := { e with drained := e.drained.filter (!lost ·), staged := e.staged.filter (!lost ·), work := [], copies := [],
                        redo := if rOpc e.bytes = 0x60 then e.redo else e.redo ++ gone, ran := e.ran && gone = [] }
      { e with plan := e.plan.map fun p => { p with cur := min (p.phases.length - 1) (p.phases.findIdx fun ph => !phaseDone e ph) } }
  let l := s.cmd.streams.map fun x => (x.1, { x.2 with journal := x.2.journal.map redo })
  let again (st : Nat) (q : W64) : Nat := match cmdOf s st q with
    | some e => if e.st = .running then (e.drained.filter (lost e)).length else 0
    | none => 0
  let plans := s.til.plans.map fun x => (x.1, x.2.1, x.2.2.1, x.2.2.2 - BitVec.ofNat 64 (again x.1 x.2.1))
  let s : State := { s with cmd := { s.cmd with streams := l }, til := { s.til with plans := plans } }
  let bound (p : Prog) : Bool := s.cmd.streams.any fun x => x.2.journal.any fun e => !e.refused && e.st = .running
    && ((match e.plan with | some q => q.pid.toNat = p.pid && q.gen = p.gen | none => false)
      || (rOpc e.bytes = 0x70 && rProg e.bytes = p.pid && e.gen = some p.gen))
  { s with til := { s.til with stage := [], progs := s.til.progs.filter bound,
                               tiles := tmap s.til.tiles {} fun x => { x with imA := {}, imB := {}, actB := false, pendSw := false } } }

/-- Resume every journal entry (R221): jobs not recorded as drained are published again, mirrors and signals sent again. -/
def resumeJournals (s : State) : State :=
  let s := { s with til := { s.til with srv := [], trn := [] } }
  let s := s.cmd.streams.foldl (fun s x => x.2.journal.foldl (fun s e => resumeEntry s x.1 e) s) s
  let s := s.cmd.streams.foldl (fun s x => x.2.journal.foldl (fun s e => republish s x.1 e) s) s
  (s.lnk.sent.filter resentAtResume).foldl resendTxn s

/-- The device writes nseq to every DB_AWB word that is not 0 (R224). -/
def rewriteAwb (s : State) : State := s.cmd.streams.foldl (fun s x => if x.2.awb = 0 then s else awbWrite s x.1) s

/-- The attestation key in force follows the measurement of the active plane (R538). -/
def deriveAk (s : State) : State := { s with sec := { s.sec with akCtx := measure (activePlane s).fw } }

/-- The other plane becomes active (R47, R551): HIF_GEN advances and the attestation key is derived again. -/
def switchPlane (s : State) : State := bumpGen (deriveAk { s with ras := { s.ras with actB := !s.ras.actB } })

end Sys2Proof.Machine
end

