-- ==== Sys2Proof/Machine/Shadow.lean ====
section
/-! DEFINITION. Shadow re-execution (R432 to R434): what a job's drains deliver, and the digests of its copies. -/

namespace Sys2Proof.Machine

/-! ### The bytes that a job's drains deliver -/

/-- A job's results for the workspace, byte by byte (R248, R250). -/
def Work.raw : Work → List Byte
  | .words w => w.flatMap fun x => natLe 32 x.bits
  | .vals v a l => (v ++ a).flatMap (fun x => natLe 4 x.toNat) ++ l.flatten.flatMap fun x => natLe 4 x.1.toNat ++ natLe 4 x.2.toNat
  | .lists l => l.flatten.flatMap fun x => natLe 4 x.1.toNat ++ natLe 4 x.2.toNat
  | .record r _ => r

/-- Lists of the same lengths from other bytes. -/
def listsOfRaw : List (List KEnt) → List Byte → List (List KEnt)
  | [], _ => []
  | x :: l, b =>
    ((List.range x.length).map fun i => (BitVec.ofNat 32 (leNat (slice b (8 * i) 4)), BitVec.ofNat 32 (leNat (slice b (8 * i + 4) 4))))
      :: listsOfRaw l (b.drop (8 * x.length))

/-- Results of the same shape from other bytes. -/
def Work.ofRaw (w : Work) (b : List Byte) : Work :=
  let f (i : Nat) : BitVec 32 := BitVec.ofNat 32 (leNat (slice b (4 * i) 4))
  match w with
  | .words w => .words ((List.range w.length).map fun i => LWord.ofBits (leNat (slice b (32 * i) 32)))
  | .vals v a l => .vals ((List.range v.length).map f) ((List.range a.length).map fun i => f (v.length + i))
      (listsOfRaw l (b.drop (4 * (v.length + a.length))))
  | .lists l => .lists (listsOfRaw l b)
  | .record _ rep => .record b rep

/-- The bytes of some writes, each of whole bytes, in order. -/
def rawOfWr (l : List (Nat × Nat × Nat)) : List Byte := l.flatMap fun x => natLe (cdiv x.2.1 8) x.2.2

/-- The same writes with other bytes. -/
def wrOfRaw : List (Nat × Nat × Nat) → List Byte → List (Nat × Nat × Nat)
  | [], _ => []
  | x :: l, b => (x.1, x.2.1, leNat (b.take (cdiv x.2.1 8)) % 2 ^ x.2.1) :: wrOfRaw l (b.drop (cdiv x.2.1 8))

/-- The bytes that a job's drains deliver, in drain order: its outputs, then what it leaves in the workspace (R433, log entry 129). -/
def JobRes.raw (r : JobRes) : List Byte := rawOfWr r.wr ++ (match r.work with | some w => w.raw | none => [])

/-- The same results with other bytes. -/
def JobRes.ofRaw (r : JobRes) (b : List Byte) : JobRes :=
  { r with wr := wrOfRaw r.wr b, work := r.work.map fun w => w.ofRaw (b.drop (rawOfWr r.wr).length) }

/-- Bytes that a fault has changed at some places. -/
def flipBytes (b : List Byte) (dev : List (Nat × Byte)) : List Byte :=
  b.zipIdx.map fun x => dev.foldl (fun y d => if d.1 = x.2 then y ^^^ d.2 else y) x.1

/-- The digest of a copy: seed 0, each byte an element (R433, R436, log entry 129). -/
def copyDigest (b : List Byte) : Nat × Nat × Nat := limbDigest 0 (b.map (·.toNat))

/-! ### The copies of a job -/

/-- A shadowed job runs again: what it delivers without a fault (R3, R433). -/
def jobAgain (s : State) (st : Nat) (e : Entry) (p : Plan) (j : Nat) : JobRes :=
  let r :=
    if isProgJob e p j then
      match imageOf s p.pid p.gen with
      | none => {}
      | some img =>
        let c := jobCtx s st e p img j
        let (t, w, _) := runProg progFuel c (stagedMem s st e.seq (some (jobPan e p j))) (freshTile {}) []
        progRes c p t w
    else libJob s st e p j []
  { r with wr := levelWrites s.mem e.rx r.wr }

/-- What the primary copy delivered: its outputs as they stand in memory, or wait for their copy (R222, R286), and its results in the workspace. -/
def delivered (s : State) (e : Entry) (j : Nat) (r : JobRes) : JobRes :=
  let held := ((e.copies.filter (·.1 = j)).flatMap Prod.snd).reverse
  { r with wr := r.wr.map fun x => (x.1, x.2.1, match held.find? (·.1 = x.1) with | some y => y.2.2 | none => readBits s.mem x.1 x.2.1),
           work := r.work.map fun w => tget e.work j w }

/-- A copy drains over the primary's outputs (R434). -/
def putCopy (s : State) (st : Nat) (e : Entry) (j : Nat) (r : JobRes) : State :=
  let later (x : Nat × Nat × Nat) : Bool := inPlace e.rx || hbmBase ≤ x.1 / 8
  let now := r.wr.filter (!later ·)
  modCmd (storeAll (tallyBits s 1 true now) now) st e.seq fun e =>
    { e with copies := e.copies.map fun x => if x.1 = j then (j, r.wr.filter later) else x,
             work := match r.work with | some w => tput e.work j w (.words []) | none => e.work }

/-- The tile of a shadow copy: of another compute die where one is in service, else of another cluster (R433); where the primary's cluster is the
only one, the spec names no tile, and any tile in service runs it (log entry 129). -/
def shadowTile (s : State) (home : Nat) : State × Option Nat :=
  let die (t : Nat) : Bool := tileUp s t && t / 64 ≠ home / 64
  let clu (t : Nat) : Bool := tileUp s t && t / 16 ≠ home / 16
  pickTile s (if allTiles.any die then die else if allTiles.any clu then clu else tileUp s)

end Sys2Proof.Machine
end

