-- ==== Sys2Proof/Machine/Faults.lean ====
section
/-! DEFINITION. The rows of the fault service (R413 to R434), of ageing (R440 to R447), of lost parts (R44, R50, R278), and of scrub and row
retirement (R299 to R303). -/

namespace Sys2Proof.Machine

/-! ### Held jobs (R418 to R422) -/

/-- Two error patterns are the same whole words (R419): val, anchor, flags and terms. -/
def sameDev (a b : List (Nat × BitVec 256)) : Bool :=
  let f (l : List (Nat × BitVec 256)) : List (Nat × BitVec 256) := l.filter fun x => x.2 ≠ 0
  (f a).all ((f b).contains ·) && (f b).all ((f a).contains ·)

/-- HELD_JOB_SERVICE (R417, R418): the replays are placed: the neighbour replay on the spare, else on `nb`, which has no job and lies in the same
cluster while that has another usable tile; else it waits for the first tile that ends one. -/
def execHeldJobService (t nb : TileNo) (s : State) : Res :=
  .next (if !serviceOn s then s
    else match heldOf s t with
      | none => s
      | some h =>
        if h.nb.isSome then s
        else match freeSpare s h with
          | some n => placeReplay s h n
          | none =>
            if (tileOf s nb.toNat).job.isNone && replayTile s h nb && (!replayNear s h || nb.toNat / 16 = t.toNat / 16) then placeReplay s h nb
            else putHeld s { h with svc := true })

/-- The tiles of a held job's replays go on to their reserved jobs. -/
def freeReplays (s : State) (h : Held) : State := (h.nb.toList ++ h.sb.toList).foldl (fun s t => freeReplay s t.toNat) s

/-- A held job is over: the tiles that held it and that ran its replays go on. -/
def endHeld (s : State) (h : Held) : State :=
  let s := freeReplays s h
  if (tileOf s h.tile.toNat).job = some h.job then endTile s h.tile.toNat else s

/-- The drain of a job by a replay of it: of a TRACE, of another command. -/
def drainAny (s : State) (j : TJob) : State :=
  match jobCmd s j with
  | some (e, p) =>
    if rOpc e.bytes = 0x60 then (if e.drained.contains j.idx then s else traceJob s j.st e p j.idx) else drainJob s j.st j.seq j.idx
  | none => s

/-- A held job ends with a replay's result (R421): it drains, and the tiles go on. -/
def drainHeld (s : State) (h : Held) : State := endHeld (drainAny (dropHeld s h) h.job) h

/-- REPLAY_DECISION (R419): the table, first row that matches; where none matches the job is unresolved too (log entry 40).
The detection's one event (R415) waits for the third replay then (R420). The drain waits for a rebuild of retained state (R42). -/
def execReplayDecision (t : TileNo) (devS devN : List (Nat × BitVec 256)) (chkS chkN recomp : Bool) (s : State) : Res :=
  .next (if !serviceOn s || s.ser.rebuild then s
    else match heldOf s t with
      | none => s
      | some h =>
        match h.nb with
        | none => s
        | some nb =>
          if h.open_ then s
          else
            let j := evtJob s h.job
            let hs := sameDev h.dev devS
            let hn := sameDev h.dev devN
            let sn := sameDev devS devN
            let settle (v : Nat) : State := judge (drainHeld s h) t.toNat h.det v j
            if !chkN then
              freeReplays (putHeld (raise s h.det 4 0 0 nb.toNat j) { h with nb := none, sb := none, tried := h.tried ++ [nb] }) h
            else if sn && !hs && chkS then settle 1
            else if hs && !hn then settle 2
            else if hs && sn && recomp && !chkS then settle 3
            else if hs && sn && chkS then settle 1
            else freeReplays (putHeld s { h with open_ := true, devS := devS, devN := devN }) h)

/-- A cluster is withdrawn for its regulator's and its tiles' self-tests (R420). -/
def withdrawCluster (s : State) (c : Nat) : State :=
  let s := modClu s c fun k => { k with wd := true, wdReg := true }
  (tilesOf c).foldl (fun s t => if bit (cluOf s c).active.toNat (t % 16) then testTile s t else s) s

/-- No copy agrees (R420): the command stops, ends with 0x0701 once its jobs in flight have ended, and the cluster is withdrawn. -/
def leaveUnresolved (s : State) (det : Nat) (st : Nat) (q : W64) (t : TileNo) (j : Option (Nat × Nat × Nat × W64)) : State :=
  let s := modCmd s st q fun e => { e with stop := if e.stop.isSome then e.stop else some (.unresolved t) }
  let s := Machine.withdraw s st q
  let s := withdrawCluster (raise s det 5 4 11 t.toNat j) (t.toNat / 16)
  match cmdOf s st q with
  | some e => if e.stop = some (.unresolved t) && !inFlight s st q then failUnresolved s st e t else s
  | none => s

/-- THIRD_REPLAY_DECISION (R420): on a tile of another compute die. Where that tile faults, its replay is discarded, the fault is an event of its own,
and another tile of another die runs the replay (R421). -/
def execThirdReplayDecision (t t3 : TileNo) (dev : Option (List (Nat × BitVec 256))) (s : State) : Res :=
  .next (if !serviceOn s || s.ser.rebuild then s
    else match heldOf s t with
      | none => s
      | some h =>
        if !h.open_ || !tileUp s t3.toNat || t3.toNat / 64 = t.toNat / 64 || h.tried.contains t3 then s
        else
          let j := evtJob s h.job
          match dev with
          | none => putHeld (raise s h.det 4 0 0 t3.toNat j) { h with tried := h.tried ++ [t3] }
          | some dev =>
            let eqS := sameDev dev h.devS
            let eqN := sameDev dev h.devN
            if eqS && eqN then judge (drainHeld s h) t.toNat h.det 1 j
            else if eqN then judge (drainHeld s h) (h.sb.getD t).toNat h.det 2 j
            else if eqS then judge (drainHeld s h) (h.nb.getD t).toNat h.det 2 j
            else leaveUnresolved (endHeld (dropHeld s h) h) h.det h.job.st h.job.seq t j)

/-! ### Self-tests and sparing (R423, R424, R428, R445) -/

/-- TILE_SELFTEST_DONE (R422 to R424) -/
def execTileSelftestDone (t : TileNo) (pass : Bool) (level : Fin 8) (s : State) : Res :=
  let n := t.toNat
  let c := n / 16
  .next (if !firmwareOn s || (rasOf s n).st ≠ 3 then s
    else
      let k := cluOf s c
      let s := if pass then raise s 0 4 6 0 n else raiseKept s 0 level.val 5 0 n
      let s :=
        if bit k.retired.toNat (n % 16) then recordSparing (modRas s n fun x => { x with st := if pass then 5 else 4 }) c
        else if k.spare.toNat = n % 16 then
          if pass then modRas s n fun x => { x with st := 1 } else recordSparing (modRas (markRetired s n) n fun x => { x with st := 4 }) c
        else if pass then modRas (modClu s c fun k => { k with active := k.active ||| slotBit n }) n fun x => { x with st := 0 }
        else recordSparing (modRas (markRetired (startFill s n) n) n fun x => { x with st := 4 }) c
      let s := if !pass && k.wd then writeMarks (modClu s c fun k => { k with up := false }) c else s
      endWithdrawal s c)

/-- The fill of a spare loads the images that its cluster's jobs are bound to (R428), two at most: one a bank. -/
def fillBanks (s : State) (c t : Nat) : State :=
  let jobs := (tilesOf c).flatMap fun u => let x := tileOf s u; x.job.toList ++ x.reserve.toList
  let l := (jobs.filterMap (bindingOf s)).eraseDups.map fun b => ({ pid := b.1, gen := b.2.1, valid := true, loading := false, img := b.2.2 } : Bank)
  modTile s t fun x => { x with imA := l.getD 0 {}, imB := l.getD 1 {}, actB := false, pendSw := false }

/-- SPARE_FILL_DONE (R428 steps 4 and 5) -/
def execSpareFillDone (c : Fin 16) (pass : Bool) (s : State) : Res :=
  let n := c.val
  let k := cluOf s n
  .next (if !firmwareOn s || !k.filling || k.spare = 15 then s
    else
      let t := 16 * n + k.spare.toNat
      if pass then
        let s := fillBanks (modClu s n fun k => { k with active := k.active ||| slotBit t, spare := 15, filling := false }) n t
        recordSparing (modRas (raiseKept s 0 4 6 2 t) t fun x => { x with st := 0 }) n
      else
        let s := modClu (markRetired s t) n fun k => { k with filling := false }
        recordSparing (modRas (raiseKept s 0 4 5 3 t) t fun x => { x with st := 4 }) n)

/-- RAS_TILE_CTL (R424, R445): op 1 runs the tile's self-test, op 2 returns an intermittent tile as its cluster's spare; both in MAINTENANCE
only. -/
def tileCtl (s : State) (t op : Nat) : State :=
  let k := cluOf s (t / 16)
  let st := (rasOf s t).st
  let no := modRas s t fun x => { x with wrErr := true }
  if s.cfg.st ≠ .maintenance then no
  else if op = 1 then (if st = 2 || st = 3 then no else testTile s t)
  else if op = 2 && st = 5 && k.spare = 15 then
    let b := slotBit t
    writeMarks (modRas (modClu s (t / 16) fun k => { k with retired := k.retired &&& ~~~b, spare := BitVec.ofNat 4 (t % 16) }) t
      fun x => { x with st := 1 }) (t / 16)
  else no

/-- TILE_SELFTEST_RUN (R445) -/
def execTileSelftestRun (sec : Bool) (s : State) : Res := .next (hostRow s sec fun s => tileCtl s s.selH.rtile.toNat 1)
/-- RETURN_AS_SPARE (R424) -/
def execReturnAsSpare (sec : Bool) (s : State) : Res := .next (hostRow s sec fun s => tileCtl s s.selH.rtile.toNat 2)

/-! ### Shadow re-execution (R432 to R434) -/

/-- SHADOW_COMPARE (R433, R434): the bytes in which the primary copy (beyond what its drain has left), the shadow copy, a third copy and the suspected
tile's run after them differ from a run without a fault. The digests are compared; the copy that is accepted stands in the outputs. -/
def execShadowCompare (st : StreamId) (job : Nat) (prim shad third again : List (Nat × Byte)) (s : State) : Res :=
  let n := st.toNat
  .next (if !runnable s n then s
    else match (strmOf s n).journal.find? fun e => !e.refused && e.st = .running && e.shadowed.contains job with
      | none => s
      | some e => match e.plan with
        | none => s
        | some p =>
          let r := jobAgain s n e p job
          let d := delivered s e job r
          let (bp, bt) := (flipBytes d.raw prim, flipBytes r.raw third)
          let dg (dev : List (Nat × Byte)) := copyDigest (flipBytes r.raw dev)
          let (dp, ds, dt, da) := (copyDigest bp, dg shad, copyDigest bt, dg again)
          let (s, home) := match (e.places.find? (·.1 = job)).map (·.2.toNat) with
            | some t => (s, some t)
            | none => pickTile s (tileUp s)
          let h := home.getD 0
          let (s, other) := shadowTile s h
          let s := { s with ras := { s.ras with shdJobs := sat 0xFFFFFFFF (s.ras.shdJobs + 1) } }
          let ok (s : State) : State := settle (markDrained s n e.seq job) n e.seq
          let kept (s : State) : State := ok (if bp = d.raw then s else putCopy s n e job (d.ofRaw bp))
          let suspect (s : State) (t : Option Nat) (same : Bool) : State := match t with
            | some t => judge s t 0x07 (if same then 2 else 1) (some (n, rTag e.bytes, job, e.seq))
            | none => s
          if dp = ds then kept s
          else
            let s := { s with ras := { s.ras with shdMism := sat 0xFFFFFFFF (s.ras.shdMism + 1) } }
            if dt = dp then suspect (kept s) other (decide (da = ds))
            else if dt = ds then suspect (ok (putCopy s n e job (r.ofRaw bt))) home (decide (da = dp))
            else leaveUnresolved (modCmd s n e.seq fun e => { e with shadowed := e.shadowed.filter (· ≠ job) }) 0x07 n e.seq (BitVec.ofNat 8 h)
              (some (n, rTag e.bytes, job, e.seq)))

/-! ### Cluster regulators (R431) -/

/-- A cluster leaves service (R37). -/
def removeCluster (s : State) (c verdict : Nat) : State :=
  let s := modClu s c fun k => { k with up := false }
  let s := (tilesOf c).foldl clearTile s
  writeMarks (raiseKept s 0x21 5 verdict 4 c) c

/-- CLUSTER_REGULATOR_FAULT (R417, R431): the cluster freezes; its jobs return to the counter, held ones stay for replay elsewhere. Its
tiles keep their grants (R497). -/
def execClusterRegulatorFault (c : Fin 16) (s : State) : Res :=
  let n := c.val
  .next (if !firmwareOn s || !cluUp s n || !(cluOf s n).ivrOk then s
    else
      (tilesOf n).foldl unloadTile (raise (modClu s n fun k => { k with ivrOk := false }) 0x21 5 0 0 n))

/-- REGULATOR_SELFTEST_DONE (R420, R431): a failure, or a third transient within 24 h, removes the cluster. -/
def execRegulatorSelftestDone (c : Fin 16) (pass : Bool) (s : State) : Res :=
  let n := c.val
  let k := cluOf s n
  .next (if !firmwareOn s then s
    else if k.wdReg then
      let s := modClu s n fun k => { k with wdReg := false }
      if pass then endWithdrawal (raise s 0x21 5 6 0 n) n else removeCluster s n 5
    else if !k.ivrOk then
      if !pass then removeCluster s n 5
      else
        let tr := recent s k.trans ++ [s.ras.sec]
        let s := modClu s n fun k => { k with ivrOk := true, trans := tr }
        if 3 ≤ tr.length then removeCluster s n 2 else raise s 0x21 5 1 0 n
    else s)

/-! ### Lost parts (R44, R50, R51, R278) -/

/-- The index of the link between two die pairs in fab_ok: the pairs in rising order. -/
def fabIx (a b : Nat) : Nat :=
  let (x, y) := (min a b, max a b)
  if x = 0 then y - 1 else if x = 1 then y + 1 else 5

/-- A fabric link fails (R44): an event of the lower-numbered of its dies; the link's loopback test runs on it, and it stays lost (R423). -/
def loseFabric (s : State) (d : Nat) : State := selfTest (raiseKept s 0x13 6 2 0 d) 0x13 6 d

/-- FABRIC_LINK_FAIL (R44, R423) -/
def execFabricLinkFail (d1 d2 : Fin 6) (s : State) : Res :=
  let (a, b) := (min d1.val d2.val, max d1.val d2.val)
  .next (if !firmwareOn s || a = b then s
    else if b < 4 then
      if !bit s.ras.fab.toNat (fabIx a b) then s
      else loseFabric { s with ras := { s.ras with fab := s.ras.fab &&& ~~~(BitVec.ofNat 6 (1 <<< fabIx a b)) } } a
    else if s.ras.fabIo.contains (a, b) then s
    else loseFabric { s with ras := { s.ras with fabIo := s.ras.fabIo ++ [(a, b)] } } a)

/-- ROOT_PLL_UNLOCK (R51, R413): an L7 fault. -/
def execRootPllUnlock (s : State) : Res :=
  .next (if !firmwareOn s then s else enterHold (raiseKept { s with clk := { s.clk with lock := false } } 0x23 7 2 0 0))

/-- The retained address whose second copy an address of the shadow region holds (R277). -/
def firstOf (c : Conf) (b : Nat) : Option Nat :=
  ([b ^^^ 0x1000, b ^^^ 0x2000].map fun x => x - rgnBase c 4 * page + rgnBase c 3 * page).find? fun a => rgnOf c a = 3 && second c a = b

/-- Every copy of a retained line that a slice took with it is rebuilt from its survivor (R278): a lost word's errors go with its slice, and a survivor
is read with corrections; where it is uncorrectable both copies are (R279), which is an event (R415). -/
def rebuildCopies (s : State) : State :=
  let c := s.cfg.conf
  (s.mem.err.map Prod.fst).foldl (fun s w =>
    let a := w * 32
    if 0x80000000 ≤ a then s
    else if rgnOf c a = 3 then
      if sliceGone s a then { s with mem := setErr s.mem w 0 } else if sliceGone s (second c a) then meetWord s w else s
    else if rgnOf c a = 4 then
      if sliceGone s a then { s with mem := setErr s.mem w 0 }
      else match firstOf c a with
        | some f =>
          if !sliceGone s f then s
          else if badWord s.mem w then enterHold (countUe (noteUe s w 0) w)
          else meetWord s w
        | none => s
    else s) s

/-- RETENTION_REBUILD_DONE (R42, R278): the hold on retained state is released. -/
def execRetentionRebuildDone (s : State) : Res :=
  .next (if s.ser.rebuild then (let s := rebuildCopies s; { s with ser := { s.ser with rebuild := false } }) else s)

/-! ### Ageing (R440 to R447) -/

/-- A tile's slack: the least sample of the last 60 s (R440). -/
def slackOf (s : State) (t : Nat) : Option Nat :=
  (((rasOf s t).samples.filter fun x => s.ras.sec < x.1 + 60).map Prod.snd).min?

/-- Add a tile's reading. -/
def addSample (s : State) (x : Sample) : State :=
  let sec := s.ras.sec
  modRas s x.tile.toNat fun r =>
    { r with samples := (r.samples.filter fun y => sec < y.1 + 60) ++ [(sec, x.val.toNat)], worst := x.val.toNat, mon := x.mon.toNat }

/-- MONITOR_SAMPLE (R440): once per second; the seconds of operation and of the health window pass with it. -/
def execMonitorSample (samples : List Sample) (s : State) : Res :=
  .next (if !firmwareOn s then s
    else
      let s := { s with ras := { s.ras with sec := s.ras.sec + 1 }, fwu := { s.fwu with remain := s.fwu.remain - 1 } }
      samples.foldl addSample s)

/-- The least offset and the greatest (R441). -/
def oMin : Int := -8
def oMax : Int := 24

/-- Least-squares prediction over the records of the last 2,160 h (R444). -/
def predict (l : List (Nat × Int)) (o : Int) : Nat :=
  let n : Int := l.length
  let sx := (l.map fun x => (x.1 : Int)).sum
  let sy := (l.map Prod.snd).sum
  let sxy := (l.map fun x => (x.1 : Int) * x.2).sum
  let sxx := (l.map fun x => (x.1 : Int) * x.1).sum
  let num := n * sxy - sx * sy
  let den := n * sxx - sx * sx
  if l.length < 7 || num * den ≤ 0 then 0xFFFFFFFF else sat 0xFFFFFFFF (((oMax - o) * den) / num).toNat

/-- Round up an integer quotient. -/
def icdiv (a : Int) (b : Nat) : Int := -((-a) / (b : Int))

/-- Apply a plan (R442): a raised offset at once, before any fraction; a fraction from the tile's next job; a lowered offset once every fraction that
the plan lowers has taken effect. -/
def applyPlan (s : State) (c : Nat) (o : Int) (fr : List (Nat × Nat)) : State :=
  let s := fr.foldl (fun s x => modRas s x.1 fun r => { r with next := if x.2 = r.frac then none else some x.2 }) s
  let s := modClu s c fun k => if k.offset ≤ o then { k with offset := o, plan := none, lower := none } else { k with plan := none, lower := some o }
  lowerOffset s c

/-- The new fraction of a tile, none where its margin is exhausted (R441). -/
def newFrac (s kf kv sreq f : Nat) (dO : Int) : Option Nat :=
  let proj : Int := (s : Int) + dO * kv - (16 - (f : Int)) * kf
  if (sreq : Int) ≤ proj then some 16
  else
    let g := 16 - icdiv (sreq - proj) kf
    if g < 12 then none else some g.toNat

/-- A re-plan of a cluster (R441 to R444), its record in the ring of the MARGIN region (R443, R534). A rise of the offset waits for its grant (R490). -/
def replan (s : State) (c : Nat) : State :=
  let k := cluOf s c
  let ts := (tilesOf c).filterMap fun t => if tileUp s t then (slackOf s t).map fun x => (t, x) else none
  match (ts.map Prod.snd).min? with
  | none => s
  | some smin =>
    if k.kv = 0 || k.kf = 0 then s
    else
      let sreq := s.cfg.conf.sReq
      let d := icdiv ((sreq : Int) - smin) k.kv
      let d := if d < 0 then -1 else d
      let o := max oMin (min oMax (k.offset + d))
      let fr := ts.map fun x => (x.1, newFrac x.2 k.kf k.kv sreq (rasOf s x.1).frac (o - k.offset))
      let keep := fr.filterMap fun x => x.2.map fun f => (x.1, f)
      let gone := (fr.filter (·.2.isNone)).map Prod.fst
      let fracOf (t : Nat) : Nat := match keep.find? (·.1 = t) with | some x => x.2 | none => (rasOf s t).frac
      let r : MarginRec := { clu := c, poh := poh s, offset := o, fracs := (tilesOf c).map fracOf,
                             slacks := (tilesOf c).map fun t => (slackOf s t).getD 0, kv := k.kv, kf := k.kf }
      let recs := if 0x800000 / 64 ≤ s.flash.margin.length then s.flash.margin.drop 1 ++ [r] else s.flash.margin ++ [r]
      let old := (recs.filter fun x => x.clu = c && poh s < x.poh + 2160).map fun x => (x.poh, x.offset)
      let s := { s with flash := { s.flash with margin := recs } }
      let s := modClu s c fun k => { k with lastPlan := s.ras.sec, predict := predict old o }
      let s := gone.foldl (fun s t => retireTile (raiseKept s 0x22 4 2 (retireAction s t) t) t) s
      if o ≤ k.offset then applyPlan s c o keep
      else
        let s := modClu s c fun k => { k with plan := some (o, keep) }
        let due (h : Consumer × Nat) : Bool := match h.1 with | .margin d => d = c | _ => false
        let g := (s.pwr.held.filter fun h => match userTile h.1 with | some t => t / 16 = c | none => false).map Prod.snd
        { s with pwr := { s.pwr with pend := (s.pwr.pend.filter fun h => !due h) ++ [(.margin c, g.sum * (o - k.offset).toNat / 100)] } }

/-- The tiles of a cluster whose monitors ask for a re-plan (R440, R413). -/
def slackLow (s : State) (c : Nat) : List Nat :=
  (tilesOf c).filter fun t => tileUp s t && (match slackOf s t with | some x => x + s.cfg.conf.dTrig < s.cfg.conf.sReq | none => false)

/-- A re-plan of a cluster is due (R440). -/
def replanDue (s : State) (c : Nat) : Bool := (cluOf s c).lastPlan + 86400 ≤ s.ras.sec || slackLow s c ≠ []

/-- MARGIN_REPLAN (R440, R441): each tile whose monitors asked for it is an event (R413, R415). -/
def execMarginReplan (c : Fin 16) (s : State) : Res :=
  .next (if serviceOn s && cluUp s c.val && replanDue s c.val then
      replan ((slackLow s c.val).foldl (fun s t => raise s 0x22 4 0 0 t) s) c.val
    else s)

/-- Every cluster in service is re-planned (R447). -/
def replanAll (s : State) : State := (List.range 16).foldl (fun s c => if cluUp s c then replan s c else s) s

/-- MARGIN_REPLAN_NOW (R447) -/
def execMarginReplanNow (sec : Bool) (s : State) : Res := .next (hostRow s sec replanAll)

/-! ### Scrub and repair (R299 to R303, R426) -/

/-- The words of a tier. -/
def tierWords (hbm : Bool) : Nat := if hbm then 8 * stackBytes / 32 else 0x80000000 / 32

/-- The word that the scrub reads at a position of a tier: where it stands in the tables of memory. A redirected row's words are those of its
remap slot (R300). -/
def scrubWord (m : Mem) (hbm : Bool) (pos : Nat) : Nat :=
  if hbm then hbmBase / 32 + pos else match m.unplace pos with | some w => w | none => pos

/-- A Serai line met a corrected error in a scrub pass; a second pass within 24 h remaps it (R426): the line's self-test runs (R423), and both of its words
are corrected or poisoned as they are copied (R302). R31 names no Serai line: the event's level 3 is the model's choice (log entry 70). -/
def noteLine (s : State) (w : Nat) : State :=
  let line := w / 2
  let p := s.ser.passes
  let l := s.ser.lineErr.filter fun x => s.ras.sec < x.2.2 + 86400
  if l.any fun x => x.1 = line && x.2.1 ≠ p then
    let m := seraiMap (w * 32)
    let b := 256 * m.1 + m.2.2.1
    let used := tget s.ser.spares b 0
    if used < 64 then
      let s := { s with ser := { s.ser with lineErr := l.filter (fun x => x.1 ≠ line), remapped := s.ser.remapped.filter (· ≠ line) ++ [line],
                                            spares := tput s.ser.spares b (used + 1) 0 } }
      let s := [2 * line, 2 * line + 1].foldl (fun s p => let w := scrubWord s.mem false p; if tget s.mem.err w 0 = 0 then s else meetWord s w) s
      selfTest (raiseKept s 0x10 3 2 9 b) 0x10 3 b
    else { s with ser := { s.ser with lineErr := l ++ [(line, p, s.ras.sec)] } }
  else if l.any fun x => x.1 = line then { s with ser := { s.ser with lineErr := l } }
  else { s with ser := { s.ser with lineErr := l ++ [(line, p, s.ras.sec)] } }

/-- A word takes another error pattern: what its correction then reads, where the pattern lies nearer to another codeword, changes with it (R292). -/
def strike (m : Mem) (w : Nat) (e : BitVec 288) : Mem :=
  let r (e : BitVec 288) : Nat := match decodeWord (m.hbmAt w) e with | some x => bits x.toNat 0 256 | none => 0
  let d := r e ^^^ r (tget m.err w 0)
  setErr (if d = 0 then m else wrRaw m (w * 32) (natLe 32 (leNat (rd m (w * 32) 32) ^^^ d))) w e

/-- SCRUB_READ (R294, R295, R299, R300): the next word of a tier; words of a lost part are passed over, and at a row that is redirected or in
retirement its remap slot is scrubbed instead. -/
def execScrubRead (hbm : Bool) (err : BitVec 288) (s : State) : Res :=
  .next (if !serviceOn s then s
    else
      let pos := if hbm then s.hbm.scrubPos else s.ser.scrubPos
      let w := scrubWord s.mem hbm pos
      let s :=
        if addrLost s (w * 32) then s
        else
          let code := s.mem.hbmAt w
          let e := tget s.mem.err w 0 ^^^ err
          let s := tally { s with mem := strike s.mem w e } 6 false (s.mem.place w * 32) 32
          let fixed := e ≠ 0 && (decodeWord code e).isSome
          let kept := !code && rgnOf s.cfg.conf (s.mem.place w * 32) = 3
          let s := meetWord s w
          let s := if (decodeWord code e).isNone && !kept then captureUe s (w * 32) else s
          if fixed && !code then noteLine s (s.mem.place w) else s
      let last := pos + 1 = tierWords hbm
      let nx := if last then 0 else pos + 1
      if hbm then { s with hbm := { s.hbm with scrubPos := nx, passes := (s.hbm.passes + b2n last) % 2 ^ 32 } }
      else { s with ser := { s.ser with scrubPos := nx, passes := (s.ser.passes + b2n last) % 2 ^ 32 } })

/-- Whether a row's cause for retirement has arisen by entry i of a stack's errors (R301): the row's word was uncorrectable, or is the second
corrected at least 1 s after another within 24 h. -/
def causeAt (l : List (Nat × Nat × Nat)) (i : Nat) : Bool :=
  match l[i]? with
  | none => false
  | some e => e.2.2 = 1 || (l.take i).any fun d => d.1 = e.1 && d.2.1 < e.2.1 && e.2.1 < d.2.1 + 86400

/-- The key of a row in `rowErr`. -/
def rowKeyOf (pc blk : Nat) : Nat := pc * 0x1000000 + blk

/-- The rows of a pseudo-channel that are due, in the order in which their causes arose (R301). A row in retirement or redirected is none; one that
was repaired may be due again. -/
def dueRows (x : Stack) (pc : Nat) : List Nat :=
  (((List.range x.rowErr.length).filter (causeAt x.rowErr)).filterMap fun i => x.rowErr[i]?.map Prod.fst).eraseDups.filter fun r =>
    r / 0x1000000 = pc && !x.log.any fun e => rowKeyOf e.pc e.blk = r && e.kind ≠ 1

/-- A row's cause: an uncorrectable word. -/
def rowCause (x : Stack) (r : Nat) : Bool :=
  match (List.range x.rowErr.length).find? fun i => causeAt x.rowErr i && (x.rowErr[i]?.map Prod.fst) = some r with
  | some i => match x.rowErr[i]? with | some e => e.2.2 = 1 | none => false
  | none => false

/-- The lowest free remap slot of a stack that no lost slice holds (log entry 115). -/
def freeSlot (s : State) (k : Nat) : Option Nat :=
  ((List.range 1024).map (1024 * k + ·)).find? fun i => !s.mem.slots.any (·.2 = i) && !sliceGone s (slotBase i)

/-- The words of a row with a listed error are read: corrected, or poisoned (R294, R302). -/
def meetRow (s : State) (k r : Nat) : State := ((rowWords k r).filter fun w => tget s.mem.err w 0 ≠ 0).foldl meetWord s

/-- The words of a row change their place: the patterns that are left take the other tier's layout (R302), and the copy's bytes count (R304). -/
def moveRow (s : State) (k r : Nat) (toSlot : Option Nat) : State :=
  let n := rowNo k r
  let hbm := toSlot.isNone
  let i := match toSlot with | some i => i | none => tget s.mem.slots n 0
  let m := ((rowWords k r).filter fun w => tget s.mem.err w 0 ≠ 0).foldl (fun m w => setErr m w (relay hbm (tget m.err w 0))) s.mem
  let m := { m with slots := match toSlot with | some i => tins m.slots n i | none => m.slots.filter (·.1 ≠ n) }
  addStk (tally { s with mem := m } 6 (!hbm) (slotBase i) 1024) k hbm 1024

/-- HBM_ROW_RETIRE (R301 to R303): steps 1 and 2: the row's words are corrected or poisoned and copied into a free remap slot, and the redirect is
set. -/
def execHbmRowRetire (k : Fin 8) (pc : BitVec 5) (blk : Nat) (s : State) : Res :=
  let n := k.val
  let x := stackOf s n
  let r := rowKeyOf pc.toNat blk
  .next (if !serviceOn s || x.lost || x.log.any (fun e => e.pc = pc.toNat && e.kind = 3) || (dueRows x pc.toNat).head? ≠ some r then s
    else match freeSlot s n with
    | none => { s with hbm := { s.hbm with stackTbl := tmod s.hbm.stackTbl n {} fun x => { x with degraded := true } } }
    | some i =>
      let s := moveRow (meetRow s n r) n r (some i)
      let e : Retire := ⟨pc.toNat, blk, (Config.hbmBank n pc.toNat blk).toNat, (Config.hbmRow n pc.toNat blk).toNat, 3, rowCause x r⟩
      { s with hbm := { s.hbm with stackTbl := tmod s.hbm.stackTbl n {} fun x => { x with log := x.log ++ [e], used := x.used + 1 } } })

/-- HBM_PPR_DONE (R302, R303, R306): steps 3 and 4 for the row of a pseudo-channel that is in retirement. A repaired row takes its words back from
the slot; else the redirect stays, and the flash keeps it. The flash holds the finished entries of the log in its order. -/
def execHbmPprDone (c : Channel) (ok : Bool) (s : State) : Res :=
  let n := c.stack.val
  let x := stackOf s n
  .next (if !serviceOn s || x.lost then s
    else match x.log.find? fun e => e.kind = 3 && e.pc = c.pc.toNat with
      | none => s
      | some e =>
        let d : Retire := { e with kind := if ok then 1 else 2 }
        let r := rowKeyOf e.pc e.blk
        let s := if ok then moveRow (meetRow s n r) n r none else s
        let log := x.log.map fun y => if y = e then d else y
        let s := { s with hbm := { s.hbm with stackTbl := tmod s.hbm.stackTbl n {} fun x =>
          { x with log := log, used := if ok then x.used - 1 else x.used, rowErr := x.rowErr.filter (fun y => y.1 ≠ r) } } }
        let s := { s with flash := { s.flash with
          redirects := s.flash.redirects.filter (·.1 ≠ n) ++ ((log.filter (·.kind ≠ 3)).map fun y => (n, y)) } }
        raiseKept s 0x12 3 2 5 (n * 0x1000000 + e.row))

end Sys2Proof.Machine
end

