-- ==== Sys2Proof/Machine/Image.lean ====
section
/-! DEFINITION. The configuration image (R514 to R533): its records, the checks of R516 in their order, and what the records say. -/

namespace Sys2Proof.Machine

/-- A record of an image (R515): type, crit, value. -/
structure CRec where
  ty : Nat
  crit : Bool
  v : List Byte
deriving DecidableEq, Repr

/-- Split the record area (R515); none where the records do not fill it exactly, or padding or reserved bits are not zero. -/
def parseRecs : Nat → List Byte → Option (List CRec)
  | _, [] => some []
  | 0, _ => none
  | n + 1, b =>
    let w := wordAt b 0
    let l := bits w 32 32
    let pad := (l + 7) / 8 * 8
    if b.length < 8 + pad || bits w 17 15 ≠ 0 || !allZero b (8 + l) (pad - l) then none
    else (parseRecs n (b.drop (8 + pad))).map fun r => ⟨bits w 0 16, bit w 16, slice b 8 l⟩ :: r

/-- The records of an image. -/
def recsOf (img : List Byte) : Option (List CRec) := parseRecs (img.length / 8) (slice img 0x80 (img.length - 224))

/-- The defined fields of a fixed-layout record (R522): position, width, least, greatest. -/
def recFields (ty : Nat) : Option (List (Nat × Nat × Nat × Nat)) :=
  match ty with
  | 1 => some [(0, 16, 0, 0xFFFF), (16, 16, 0, 0xFFFF), (32, 16, 0, 0xFFFF), (64, 32, 0, 0xFFFFFFFF)]
  | 2 => some [(0, 16, 0, 0xFFFF), (16, 1, 0, 1), (32, 32, 10, 100000), (64, 32, 100, 60000)]
  | 3 => some [(0, 11, 96, 2047), (16, 11, 8, 2047), (32, 11, 16, 2047), (64, 32, 1, 0xFFFFFFFF)]
  | 4 => some [(0, 16, 10, 1440), (16, 8, 1, 168)]
  | 5 => some [(0, 32, 10, 10000), (32, 32, 10, 60000), (64, 7, 5, 100)]
  | 6 => some [(0, 12, 800, 2400), (12, 11, 20, 2000), (23, 6, 0, 60), (29, 1, 0, 1), (30, 6, 1, 60)]
  | 7 => some [(0, 16, 1, 1000)]
  | 8 => some [(0, 8, 8, 48), (8, 8, 1, 16)]
  | 9 => some [(0, 1, 0, 1)]
  | _ => none

/-- A value holds a field: it reaches to the field's end (R522). -/
def hasField (v : List Byte) (lo n : Nat) : Bool := (lo + n + 7) / 8 ≤ v.length

/-- A field of a value, its default beyond the value's end (R522). -/
def field (v : List Byte) (lo n d : Nat) : Nat := if hasField v lo n then bits (leNat v) lo n else d

/-- The bits of the first 64 bytes of a value outside the named fields are zero. -/
def onlyBits (v : List Byte) (l : List (Nat × Nat)) : Bool :=
  leNat v = l.foldl (fun a x => a + (bits (leNat v) x.1 x.2) <<< x.1) 0

/-- The members of a GROUP record's list, homes of an EXPMAP's (R524, R526). -/
def groupP (v : List Byte) : Nat := fieldAt v 0 16 16 + 1
def mapE (v : List Byte) : Nat := fieldAt v 8 16 16 + 1
/-- Stream count, range count, and the offset of the ranges of a JOB record (R526). -/
def jobN (v : List Byte) : Nat := fieldAt v 0x20 0 16
def jobR (v : List Byte) : Nat := fieldAt v 0x20 16 5
def jobOff (v : List Byte) : Nat := 0x28 + (2 * jobN v + 7) / 8 * 8

/-- Reserved bits of a record's value are zero (R522, R524, R526). -/
def CRec.clean (r : CRec) : Bool :=
  match recFields r.ty with
  | some fs => onlyBits r.v (fs.map fun f => (f.1, f.2.1))
  | none =>
    if r.ty = 0x10 then onlyBits (slice r.v 0 8) [(0, 12), (12, 1), (16, 16)]
    else if r.ty = 0x11 then onlyBits (slice r.v 0 8) [(0, 8), (32, 32)] && onlyBits (slice r.v 8 8) [(0, 12), (16, 16)]
    else if r.ty = 0x12 then
      onlyBits (slice r.v 0 8) [(0, 12), (16, 12), (32, 4)] && onlyBits (slice r.v 16 8) [(0, 14), (16, 15)]
        && onlyBits (slice r.v 24 8) [(0, 44)] && onlyBits (slice r.v 32 8) [(0, 16), (16, 5)]
        && allZero r.v (0x28 + 2 * jobN r.v) (jobOff r.v - 0x28 - 2 * jobN r.v)
        && (List.range (jobR r.v)).all fun i => onlyBits (slice r.v (jobOff r.v + 16 * i) 16) [(0, 44), (64, 32)]
    else true

/-- The types that R522 to R526 define. -/
def definedRec (ty : Nat) : Bool := (1 ≤ ty && ty ≤ 10) || ty = 0x10 || ty = 0x11 || ty = 0x12

/-- A record's fields lie within their ranges (R516 step 6). -/
def CRec.inRange (r : CRec) : Bool :=
  let n := r.v.length
  match recFields r.ty with
  | some fs => (fs.all fun f => !hasField r.v f.1 f.2.1 || (f.2.2.1 ≤ bits (leNat r.v) f.1 f.2.1 && bits (leNat r.v) f.1 f.2.1 ≤ f.2.2.2))
      && (r.ty ≠ 1 || hasField r.v 0 16)
  | none =>
    if r.ty = 10 then n = 97 && keyOk r.v
    else if r.ty = 0x10 then 16 ≤ n && n = 16 + 2 * groupP r.v
    else if r.ty = 0x11 then 16 ≤ n && n = 16 + 4 * mapE r.v
    else if r.ty = 0x12 then
      0x28 ≤ n && n = jobOff r.v + 16 * jobR r.v && 1 ≤ jobN r.v && jobN r.v ≤ 4096 && 1 ≤ jobR r.v && jobR r.v ≤ 16
        && 1 ≤ fieldAt r.v 0 32 4 && fieldAt r.v 0 32 4 ≤ 8 && 1 ≤ fieldAt r.v 0x10 16 15 && fieldAt r.v 0x10 16 15 ≤ 16384
        && fieldAt r.v 0x18 0 44 % 64 = 0
    else true

/-- Take one record into the configuration. -/
def addRec (c : Conf) (r : CRec) : Conf :=
  let v := r.v
  let f := field v
  match r.ty with
  | 1 => { c with node := BitVec.ofNat 16 (f 0 16 0), domain := BitVec.ofNat 16 (f 16 16 0), feed := BitVec.ofNat 16 (f 32 16 0),
                  incBase := BitVec.ofNat 32 (f 64 32 0) }
  | 2 => { c with escort := BitVec.ofNat 16 (f 0 16 0), escEn := f 16 1 0 = 1, escTo := f 32 32 500, lossTo := f 64 32 1000 }
  | 3 => { c with stg := f 0 11 256, wsp := f 16 11 128, ret := f 32 11 32, wsCeil := f 64 32 64 }
  | 4 => { c with sMin := f 0 16 60, hHr := f 16 8 12 }
  | 5 => { c with e2eUs := f 0 32 100, giveMs := f 32 32 1000, snapPct := f 64 7 25 }
  | 6 => { c with cap := f 0 12 2400, slope := f 12 11 200, floorQ := f 23 6 0, floorEn := f 29 1 0 = 1, win := f 30 6 10 }
  | 7 => { c with sealMs := f 0 16 10 }
  | 8 => { c with sReq := f 0 8 16, dTrig := f 8 8 4 }
  | 9 => { c with maintOk := f 0 1 0 = 1 }
  | 0x10 =>
    let g : GroupRec := { id := fieldAt v 0 0 12, dropOk := fieldAt v 0 12 1 = 1, epoch := wordAt v 8,
                          members := (List.range (groupP v)).map fun i => leNat (slice v (16 + 2 * i) 2) }
    { c with groups := c.groups ++ [g] }
  | 0x11 =>
    let m : ExpMap := { id := fieldAt v 0 0 8, gen := fieldAt v 0 32 32, group := fieldAt v 8 0 12,
                        homes := (List.range (mapE v)).map fun i => (leNat (slice v (16 + 4 * i) 2), leNat (slice v (18 + 4 * i) 2)) }
    { c with maps := c.maps ++ [m] }
  | 0x12 =>
    let j : JobRec := { jobGroup := fieldAt v 0 0 12, parityGroup := fieldAt v 0 16 12, mb := fieldAt v 8 0 32, p0 := fieldAt v 8 32 32,
                        sync0 := fieldAt v 0x10 0 14, nsync := fieldAt v 0x10 16 15, stepAddr := fieldAt v 0x18 0 44,
                        streams := (List.range (jobN v)).map fun i => leNat (slice v (0x28 + 2 * i) 2),
                        ranges := (List.range (jobR v)).map fun i => (fieldAt v (jobOff v + 16 * i) 0 44, fieldAt v (jobOff v + 16 * i + 8) 0 32) }
    { c with job := some j, rsv := fieldAt v 0 32 4 }
  | _ => c

/-- The configuration that an image's records give. -/
def confOf (l : List CRec) : Conf := l.foldl addRec {}

/-- Ranges that name other fields of the image (R522), and the step record's address, in the general region or HBM (R526): step 6. -/
def fieldsAgree (l : List CRec) (c : Conf) : Bool :=
  (match c.job with | some j => openRange c j.stepAddr 64 | none => true) &&
  (!(l.any (·.ty = 2)) || c.escort ≠ c.node) && (!(l.any fun r => r.ty = 3 && hasField r.v 64 32) || c.wsCeil ≤ 2 * c.wsp) && c.e2eUs ≤ 100 * c.giveMs && c.dTrig < c.sReq

/-- No record but GROUP and EXPMAP appears twice (R515). -/
def oncePerType (l : List CRec) : Bool := distinct ((l.map (·.ty)).filter fun t => definedRec t && t ≠ 0x10 && t ≠ 0x11)

/-- The pages of a job that lie in HBM stack k (R466). -/
def pagesIn (j : JobRec) (k : Nat) : Nat :=
  (j.ranges.map fun r => ((List.range r.2).filter fun i => hbmBase ≤ r.1 && (r.1 + i * page - hbmBase) / stackBytes = k).length).sum

/-- The job record keeps R463 to R466, with the reserve that the image names. -/
def jobOk (c : Conf) (j : JobRec) : Bool :=
  let grp (i : Nat) : Option GroupRec := c.groups.find? (·.id = i)
  match grp j.jobGroup, grp j.parityGroup with
  | some jg, some pg =>
    let g := pg.members.length
    let par := 2 * cdiv (pageCount j) (g - 1)
    4 ≤ g && g ≤ 16 && (pg.members.all (jg.members.contains ·)) && j.p0 = jg.members.length && j.sync0 + j.nsync ≤ 0x4000
      && (j.ranges.all fun r => r.1 % page = 0 && (inGeneral c r.1 (r.2 * page) || inHbmFree c r.1 (r.2 * page)))
      && (j.ranges.zipIdx.all fun x => j.ranges.zipIdx.all fun y => x.2 = y.2 || !rangesMeet x.1.1 (x.1.2 * page) y.1.1 (y.1.2 * page))
      && c.escEn
      && (List.range 8).all fun k => 2 * pagesIn j k + (par + 7 - k) / 8 ≤ 1536 * c.rsv
  | _, _ => false

/-- The records agree with one another (R516 step 7, R523 to R527). -/
def recordsAgree (c : Conf) : Bool :=
  let own := c.node.toNat
  c.stg + c.wsp + 3 * c.ret + 32 + 64 ≤ 1024
    && distinct (c.groups.map (·.id)) && (c.groups.all fun g => g.members.contains own && distinct g.members)
    && (c.groups.map (·.members.length)).sum ≤ 1048576
    && distinct (c.maps.map (·.id)) && (c.maps.map (·.homes.length)).sum ≤ 262144
    && (c.maps.all fun m => distinct (m.homes.map fun h => h.1 * 65536 + h.2) &&
        (match c.groups.find? (·.id = m.group) with | some g => m.homes.all (·.1 < g.members.length) | none => false))
    && (match c.job with | some j => jobOk c j | none => true)

/-! ### The checks of R516 -/

/-- No image has been in force since the last cold start, so that one which comes applies whole (R518). -/
def firstImage (s : State) : Bool := s.cfg.confImg = []

/-- The GROUP records that a control-plane start would commit pass R360 beside the committed entries that stay (R525): the node in force is a member, and
the table has room. -/
def groupsFit (s : State) (c : Conf) : Bool :=
  let node := if firstImage s then c.node else s.cfg.conf.node
  let new := c.groups.filter fun g => let e := groupOf s g.id; !(e.valid && !(e.epoch < BitVec.ofNat 64 g.epoch))
  let kept := s.lnk.groups.filter fun x => x.2.valid && !new.any (·.id = x.1)
  new.all (·.members.contains node.toNat) && (kept.map (·.2.members.length)).sum + (new.map (·.members.length)).sum ≤ 1048576

/-- The digest of the device's identity key (R538). -/
def devDig (s : State) : List Byte := sha384 (pubBytes (idKey s))

/-- cver, cfloor and own_dig of an image (R514). -/
def imgCver (img : List Byte) : Nat := fieldAt img 0x10 0 32
def imgCfloor (img : List Byte) : Nat := fieldAt img 0x10 32 32
def imgOwnDig (img : List Byte) : List Byte := slice img 0x20 48

/-- Step 1 of R516. -/
def imgForm (img : List Byte) : Bool :=
  let n := img.length
  224 ≤ n && n % 8 = 0 && n ≤ 0x400000 && fieldAt img 0 0 32 = 0x4643575A && fieldAt img 4 0 16 = 1 && fieldAt img 4 16 16 = 0
    && fieldAt img 8 0 32 = n && fieldAt img 8 32 32 = 0 && imgCfloor img ≤ imgCver img && fieldAt img 0x18 1 63 = 0
    && (bit (wordAt img 0x18) 0 || allZero img 0x50 48)
    && (match recsOf img with | some l => l.all CRec.clean | none => false)

/-- The bytes of an owner record that its signature covers (log entry 131). -/
def OwnerRec.raw (r : OwnerRec) : List Byte := slice r.key 0 97 ++ natLe 4 r.epoch ++ slice r.dig 0 48

/-- A record's signature verifies under the device identity key (R529). -/
def ownerSigned (s : State) (r : OwnerRec) : Bool :=
  ecVerify (pubBytes (idKey s)) (sha384 r.raw) (leNat (slice r.sig 0 48)) (leNat (slice r.sig 48 48))

/-- A record in one of the two places that carries an epoch and verifies. -/
def ownerAt (s : State) (e : Nat) : Option OwnerRec :=
  ([s.flash.ownA, s.flash.ownB].filterMap id).find? fun r => r.epoch = e && ownerSigned s r

/-- The owner record in force (R529): the one that verifies and carries the epoch of counter 3. -/
def ownerRec (s : State) : Option OwnerRec := ownerAt s s.flash.ctr3

/-- Key and digest of a record; none of a release record (R531). -/
def OwnerRec.owner (r : OwnerRec) : Option (List Byte × List Byte) := if r.dig.all (· = 0) then none else some (r.key, r.dig)

/-- The owner of the record in force: none where the device is unowned. -/
def ownerOf (s : State) : Option (List Byte × List Byte) := (ownerRec s).bind OwnerRec.owner

/-- The owner between starts: a release acts at the next control-plane start (R531). -/
def ownerNow (s : State) : Option (List Byte × List Byte) :=
  match ownerOf s with
  | some o => some o
  | none => if s.cfg.unowned then none else (ownerAt s (s.flash.ctr3 - 1)).bind OwnerRec.owner

/-- The owner records are in order (R529): one is in force, a release counted, or counter 3 is 0. -/
def ownerSound (s : State) : Bool := s.flash.ctr3 = 0 || (ownerRec s).isSome

/-- A new owner record goes to the place that is not in force, and counter 3 advances (R530, R531). -/
def putOwner (s : State) (key dig : List Byte) : State :=
  let f := s.flash
  let r : OwnerRec := { key := key, epoch := f.ctr3 + 1, dig := dig, sig := [] }
  let g := ecSign (idKey s) (sha384 r.raw)
  let r := { r with sig := sigBytes g }
  let inA := match f.ownA with | some a => a.epoch = f.ctr3 && ownerSigned s a | none => false
  { s with flash := if inA then { f with ownB := some r, ctr3 := f.ctr3 + 1 } else { f with ownA := some r, ctr3 := f.ctr3 + 1 } }

/-- The key of the image's OWNER record. -/
def ownerKey (l : List CRec) : Option (List Byte) := (l.find? (·.ty = 10)).map (·.v)

/-- The checks of R516 in order, against an owner's key and digest; `trial` names the digest that a transfer's image must carry. -/
def checkImage (s : State) (own : Option (List Byte × List Byte)) (trial : Option (List Byte)) (img : List Byte) : Status :=
  if !imgForm img then 0x0A01
  else
    let l := (recsOf img).getD []
    let okey := ownerKey l
    let key := match trial, own with
      | some _, _ => okey
      | none, some (k, _) => some k
      | none, none => okey
    let want := match trial, own with
      | some d, _ => some d
      | none, some (_, d) => some d
      | none, none => okey.map sha384
    match key with
    | none => 0x0A02
    | some k =>
      if !imgSigned k img then 0x0A02
      else if some (imgOwnDig img) ≠ want || (match okey, own, trial with
          | some o, some (k', _), none => o ≠ k'
          | some o, _, some d => sha384 o ≠ d
          | _, _, _ => false) then 0x0A03
      else if imgCver img < s.flash.ctr1 then 0x0A04
      else if bit (wordAt img 0x18) 0 && slice img 0x50 48 ≠ devDig s then 0x0A05
      else
        let c := confOf l
        if (l.any fun r => !definedRec r.ty && r.crit) || !oncePerType l || !(l.any (·.ty = 1)) || !(l.all CRec.inRange) || !fieldsAgree l c then 0x0A06
        else if !recordsAgree c || !groupsFit s c then 0x0A07
        else 0

/-- An image valid by R516 under the owner in force. -/
def imageStatus (s : State) (img : List Byte) : Status := checkImage s (ownerOf s) none img

/-- An unowned device takes its first owner from the image that it applies (R530). -/
def firstOwner (s : State) (img : List Byte) : State :=
  let k := (ownerKey ((recsOf img).getD [])).getD []
  let s := putOwner s k (sha384 k)
  { s with cfg := { s.cfg with unowned := false, ownDig := sha384 k } }

/-! ### What the STAGE region holds (R519, R531, R543, R547) -/

/-- The units that hold bytes [off, off + n) of STAGE have all been written. -/
def unitsWritten (s : State) (off n : Nat) : Bool :=
  (List.range ((off + n + 4095) / 4096)).all fun u => u < off / 4096 || s.flash.units.contains u

/-- Bytes of STAGE. -/
def stageBytes (s : State) (off n : Nat) : List Byte := (List.range n).map fun i => tget s.flash.stage (off + i) 0

/-- The image staged at an offset, its length read from its header; none where one of its units has not been written. -/
def stagedImage (s : State) (off : Nat) : Option (List Byte) :=
  let n := leNat (stageBytes s (off + 8) 4)
  if 0x1000000 < off + n || !unitsWritten s off (max n 16) then none else some (stageBytes s off n)

/-! ### An apply or a transfer that runs (R519, R530, R531) -/

/-- Its image: 1 an apply's, 2 a transfer's; none of a release, 3. -/
def busyImage (s : State) : Option (List Byte) :=
  if s.cfg.busy = 1 then stagedImage s 0 else if s.cfg.busy = 2 then stagedImage s 0x1000 else none

/-- Its owner record and counter 3 are written (R530, R531): a first owner's, a new owner's, or a release. -/
def busyOwner (s : State) : State :=
  let img := (busyImage s).getD []
  if s.cfg.busy = 1 then (if (ownerNow s).isNone then firstOwner s img else s)
  else if s.cfg.busy = 2 then
    let s := putOwner s ((ownerKey ((recsOf img).getD [])).getD []) (slice (stageBytes s 0 256) 0x38 48)
    { s with cfg := { s.cfg with ownDig := slice (stageBytes s 0 256) 0x38 48 } }
  else putOwner s [] (List.replicate 48 0)

/-- It is cut short: whether its owner record and counter had been written is a free value, so that either owner is in force; its slot does not hold the
image (R521, R531). -/
def cutBusy (s : State) : State :=
  if s.cfg.busy = 0 then s
  else
    let v := (Config.freeValue s.free).toNat
    let s := freshFree s
    if v % 2 = 1 then busyOwner s else s

end Sys2Proof.Machine
end

