-- ==== Sys2Proof/Machine/Boot.lean ====
section
/-! DEFINITION. Starts (R489, R507 to R518, R525, R528 to R530, R548, R549, R572, R590): the boot ROM, control firmware's start, self-test,
entry into service, and the warm reset. -/

namespace Sys2Proof.Machine

/-! ### Statuses (R532, R563) -/

/-- Set FWU_STAT.last_status; a failure goes to the fault history too (R563). -/
def fwuStatus (s : State) (v : Status) : State :=
  let s := { s with fwu := { s.fwu with last := v } }
  if v = 0 then s else history s v 0

/-- Set CFG_STAT.last_status; a failure goes to the fault history too (R532). -/
def cfgStatus (s : State) (v : Status) : State :=
  let s := { s with cfg := { s.cfg with last := v } }
  if v = 0 then s else history s v 0

/-! ### Firmware images (R540, R541) -/

/-- Fields of a firmware image (R540). -/
def fwVer (img : List Byte) : Nat := fieldAt img 0x10 0 32
def fwSvn (img : List Byte) : Nat := fieldAt img 0x10 32 32
def fwFloor (img : List Byte) : Nat := fieldAt img 0x18 0 32
def fwRsf (img : List Byte) : Nat := fieldAt img 0x20 32 16
def fwRsfMin (img : List Byte) : Nat := fieldAt img 0x20 48 16
def fwKey (img : List Byte) : List Byte := slice img 0x80 97

/-- The checks of R541 in order. -/
def fwStatus (s : State) (img : List Byte) : Status :=
  let n := img.length
  if !(0x400 ≤ n && n ≤ 0x1000000 && n % 8 = 0 && fieldAt img 0 0 32 = 0x5746575A && fieldAt img 4 0 16 = 1 && fieldAt img 4 16 16 = 0
      && fieldAt img 8 0 32 = n && fieldAt img 8 32 32 = 0 && fieldAt img 0x18 33 31 = 0 && fwFloor img ≤ fwSvn img
      && allZero img 0x48 56 && allZero img 0xE1 31) then 0x0802
  else if leNat (sha384 (fwKey img)) ≠ (Config.romKeyDigest (bit (wordAt img 0x18) 32)).toNat || !imgSigned (fwKey img) img then 0x0803
  else if fwSvn img < s.flash.ctr0 then 0x0804
  else if Config.hwRev.toNat < fieldAt img 0x20 0 16 || fieldAt img 0x20 16 16 < Config.hwRev.toNat then 0x0805
  else 0

/-! ### The host link (R504, R566, R590) -/

/-- The host link trains where it can; the rate, the width and the encoding are the host's (a free value). Where the boot ROM has stopped, the link
answers configuration requests alone (R510, R536). -/
def trainLink (s : State) : State :=
  let h := s.hif
  if h.up || h.perst || !s.clk.href || !s.ras.io0 || s.pwr.phase ≠ .on then s
  else if s.cfg.st = .powerup && !s.fwu.recovery && s.ras.planeA.fw = [] && s.ras.planeB.fw = [] then
    (if s.fwu.last = 0x080C || (s.clk.lock && !s.ras.io1) then { s with hif := { h with up := true } } else s)
  else
    let v := (Config.freeValue s.free).toNat
    let rate := v % 4
    let width := 2 ^ (v / 4 % 4)
    let s := freshFree { s with hif := { h with up := true, rate := rate, width := width,
                                                flit := decide (2 ≤ rate) || (rate = 1 && bit (v / 16) 0) } }
    let s := if h.rate ≠ rate || h.width ≠ width then hifEvent s 2 else s
    flushHost s

/-- The host link goes down. -/
def dropLink (s : State) : State := { s with hif := { s.hif with up := false } }

/-- The host link retrains (R513). -/
def retrainLink (s : State) : State :=
  if s.hif.up then trainLink { s with hif := { s.hif with up := false, retrains := sat 0xFFFF (s.hif.retrains + 1) } } else trainLink s

/-! ### Power off and cold start (R8, R189, R487 to R489, R512) -/

/-- Stacks after a loss of power: what is lost stays lost, and the retirement log is restored from the flash (R303, R306, R416). -/
def coldStacks (s : State) : Tbl Stack :=
  (List.range 8).foldl (fun t k =>
    let log := (s.flash.redirects.filter (·.1 = k)).map Prod.snd
    tput t k { lost := (stackOf s k).lost, log := log, used := (log.filter (·.kind = 2)).length } {}) []

/-- Update units of lost stacks stay out of service, and retired lanes stay retired (R416, R427). -/
def coldUnits (s : State) : Tbl UUnit :=
  (List.range 8).foldl (fun t k => tput t k { up := !(stackOf s k).lost && (tget s.hbm.units k {}).lanes ≠ 0, lanes := (tget s.hbm.units k {}).lanes } {}) []

/-- What a loss of power leaves (R8, R50, R189, R416, R512): the flash, the module's parts, its contacts and what has already left it;
everything else is at its reset value. The moments of operation go on counting. -/
def coldState (s : State) (p : PPower) : State :=
  let r := s.ras
  let w := s.pwr
  { pending := s.pending, clock := s.clock, free := s.free, flash := s.flash, out := s.out,
    ser := { up := r.pairs, remapped := s.ser.remapped, spares := s.ser.spares },
    hbm := { stackTbl := coldStacks s, units := coldUnits s },
    ras := { sec := r.sec, pairs := r.pairs, engines := r.engines, io0 := r.io0, io1 := r.io1, fab := r.fab, fabIo := r.fabIo, losses := r.losses },
    pwr := { phase := p, seated := w.seated, coldLow := w.coldLow, offCause := w.offCause, vin := w.vin },
    hif := { perst := s.hif.perst }, lm0 := s.lm0, lm1 := s.lm1 }

/-- The device turns off (R487). `why`: 1 collapse, 2 overvoltage, 3 junction, 4 COLD_RST#. A change of the configuration that runs is cut short. -/
def turnOff (s : State) (why : Nat) : State :=
  let s := cutBusy s
  coldState { s with pwr := { s.pwr with offCause := why } } .off

/-- Soft start begins (R489). -/
def powerUp (s : State) : State :=
  coldState { s with pwr := { s.pwr with offCause := 0 } } .soft

/-! ### The boot ROM (R548, R549) -/

/-- A slot in trial counts as failed (R517, R548). -/
def FSlot.settle (x : FSlot) : FSlot := if x.st = 1 then { x with st := 3 } else x

/-- Firmware slots. -/
def fwSlot (s : State) (b : Bool) : FSlot := if b then s.flash.fwB else s.flash.fwA
def setFwSlot (s : State) (b : Bool) (x : FSlot) : State :=
  if b then { s with flash := { s.flash with fwB := x } } else { s with flash := { s.flash with fwA := x } }
/-- Configuration slots. -/
def cfgSlot (s : State) (b : Bool) : FSlot := if b then s.flash.cfgB else s.flash.cfgA
def setCfgSlot (s : State) (b : Bool) (x : FSlot) : State :=
  if b then { s with flash := { s.flash with cfgB := x } } else { s with flash := { s.flash with cfgA := x } }

/-- The firmware slot that the boot ROM loads (R548). -/
def bootSlot (s : State) : Option Bool :=
  let b := s.flash.fwIn
  if fwStatus s (fwSlot s b).img = 0 then some b
  else if (fwSlot s (!b)).st = 2 && fwStatus s (fwSlot s (!b)).img = 0 then some (!b)
  else none

/-- CP-A starts as the active plane at every start from POWERUP (R49, R510), whatever the flash marks of it (log entry 42); CP-B is held in reset,
and stays out of service where it is retired (R416) or its die is lost. -/
def bootPlanes (s : State) (img : List Byte) : State :=
  let bOk := !bit s.flash.planeRet.toNat 1 && s.ras.io1
  { s with ras := { s.ras with actB := false, planeA := { st := 0, fw := img }, planeB := { st := if bOk then 3 else 2 } } }

/-- BOOT_ROM_START (R489, R510, R536, R548, R549): soft start has ended, and the device is in POWERUP. Where the flash's counters do not authenticate, it
stays there, records 0x080C and does nothing more; without IO1 no key is formed and the cold start does not complete. -/
def execBootRomStart (s : State) : Res :=
  .next (if s.pwr.phase = .off || s.cfg.st ≠ .powerup || s.fwu.recovery || s.fwu.last = 0x080C || s.ras.planeA.fw ≠ [] || s.ras.planeB.fw ≠ []
      || !s.ras.io0 then s
    else
    let s := { s with pwr := { s.pwr with phase := .on } }
    if !s.ras.io1 then trainLink { s with clk := { s.clk with lock := true, refOk := true, href := true } }
    else if !rpmcOk s then trainLink (fwuStatus { s with clk := { s.clk with lock := true, refOk := true, href := true } } 0x080C)
    else
      let f := s.flash
      let ppm := (Config.freeValue s.free).setWidth 16
      let s := freshFree { s with flash := { f with fwA := f.fwA.settle, fwB := f.fwB.settle },
                                  clk := { s.clk with lock := true, refOk := true, href := true, ppm := ppm } }
      match bootSlot s with
      | some b =>
        let img := (fwSlot s b).img
        let s := bootPlanes s img
        trainLink { s with fwu := { s.fwu with rsf := BitVec.ofNat 16 (fwRsf img) } }
      | none => trainLink { s with fwu := { s.fwu with recovery := true } })

/-! ### Configuration in force (R516 to R518, R525, R528) -/

/-- Commit a GROUP record (R525): where the committed entry is invalid or holds a lower epoch. -/
def commitRec (s : State) (g : GroupRec) : State :=
  let e := groupOf s g.id
  let ep := BitVec.ofNat 64 g.epoch
  let total := ((s.lnk.groups.filter fun x => x.1 ≠ g.id && x.2.valid).map fun x => x.2.members.length).sum
  match g.members.findIdx? (· = s.cfg.conf.node.toNat) with
  | none => s
  | some rank =>
    if (e.valid && !(e.epoch < ep)) || 1048576 < total + g.members.length then s
    else
      let same := e.valid && e.members = g.members && e.rank = rank
      let s := modGroup s g.id fun x => { x with valid := true, dropOk := g.dropOk, rank := rank, epoch := ep, members := g.members,
                                                 cseq := if e.valid then x.cseq else 0 }
      redeliver (if same || !e.valid then s else changeColls s g.id g.dropOk)

/-- New power values act (R486, R495), those after start-up at the slope of its defaults: a cap below p_ref waits until p_ref has come down to it. -/
def setPower (s : State) (c : Conf) : State :=
  let p := s.pwr
  let low := c.cap * 1000 < p.pref
  { s with pwr := { p with cap := if low then p.cap else c.cap, capNext := if low then some c.cap else none,
                           thcap := if p.thcap < p.cap then p.thcap else if low then p.cap else c.cap,
                           slope := c.slope, easing := p.easing || p.startup, floorQ := c.floorQ, floorEn := c.floorEn, win := c.win, startup := false } }

/-- A changed JOB record takes effect (R528): the held snapshot, its copies and its parity are discarded. -/
def newJob (s : State) (j : Option JobRec) : State :=
  let b := s.job
  { s with job := { st := b2n j.isSome, wrErr := b.wrErr, serial := b.serial, replay := b.replay },
           cfg := { s.cfg with conf := { s.cfg.conf with job := j } } }

/-- A changed escort (R454): unacknowledged withdrawals count as acknowledged, and the former escort gets RELEASE. -/
def newEscort (s : State) (old : Conf) : State :=
  let c := s.cfg.conf
  if c.escEn = old.escEn && c.escort = old.escort then s
  else
    let w := s.esc.wd
    let e := s.esc
    let s := { s with esc := { e with st := 0, feed := 0, former := if old.escEn && !e.former.contains old.escort then e.former ++ [old.escort] else e.former } }
    escRefresh (w.foldl (fun s x => withdrawn s x.1 x.2) s)

/-- Records of the image in force apply at a control-plane start (R518): at a cold start all of them, else fields marked C keep their
values and a changed JOB waits while the job is held (R528). -/
def applyRecords (s : State) (cold : Bool) (c : Conf) : State :=
  let old := s.cfg.conf
  if cold then
    let s := { s with cfg := { s.cfg with conf := c, pendCold := false, last := 0 }, job := { st := b2n c.job.isSome } }
    c.groups.foldl commitRec (setPower s c)
  else
    let diff := c.node ≠ old.node || c.domain ≠ old.domain || c.incBase ≠ old.incBase || c.stg ≠ old.stg || c.wsp ≠ old.wsp || c.ret ≠ old.ret
      || c.rsv ≠ old.rsv
    let wait := c.job ≠ old.job && 2 ≤ s.job.st
    let k := { c with node := old.node, domain := old.domain, incBase := old.incBase, stg := old.stg, wsp := old.wsp, ret := old.ret,
                      rsv := old.rsv, job := old.job }
    let s := cfgStatus { s with cfg := { s.cfg with conf := k, pendCold := diff } } (if diff || wait then 0x0A0A else 0)
    let s := if c.job ≠ old.job && !wait then newJob s c.job else s
    let s := newEscort s old
    c.groups.foldl commitRec (setPower s c)

/-- The configuration slot that a control-plane start uses (R517): of the confirmed and valid ones that with the higher cver. -/
def pickConfig (s : State) (ok : FSlot → Bool) : Option Bool :=
  let good (b : Bool) : Bool := ok (cfgSlot s b) && imageStatus s (cfgSlot s b).img = 0
  match good false, good true with
  | true, true => some (decide (imgCver s.flash.cfgA.img < imgCver s.flash.cfgB.img))
  | true, false => some false
  | false, true => some true
  | false, false => none

/-- Take a configuration image into force (R516 to R518); an unowned device takes its first owner from it (R530). -/
def takeConfig (s : State) (cold b : Bool) : State :=
  let img := (cfgSlot s b).img
  let s := if s.cfg.unowned then firstOwner s img else s
  let s := { s with flash := { s.flash with cfgIn := b }, cfg := { s.cfg with waiting := false, confImg := img, cver := imgCver img } }
  let a := activePlane s
  let s := setPlane s s.ras.actB { a with conf := img }
  applyRecords s cold (confOf ((recsOf img).getD []))

/-- No slot qualifies: the device waits in CONFIGURE (R517, R529). -/
def waitConfig (s : State) (st : Status) : State := cfgStatus { s with cfg := { s.cfg with waiting := true } } st

/-- The owner's digest and epoch that the configuration and the keys use (R529, R538); the evidence key's certificate goes into EVKEY at the first start
under an epoch. -/
def readOwner (s : State) : State :=
  let d := match ownerOf s with | some (_, d) => d | none => List.replicate 48 0
  let s := { s with cfg := { s.cfg with unowned := (ownerOf s).isNone && ownerSound s, ownDig := d },
                    sec := { s.sec with evkCtx := d ++ natLe 4 s.flash.ctr3 } }
  if s.flash.evkey.any (·.1 = s.flash.ctr3) then s
  else { s with flash := { s.flash with evkey := s.flash.evkey ++ [(s.flash.ctr3, leafCert s 1)] } }

/-- The standby plane starts with the images in force (R510, R513). -/
def startStandby (s : State) : State :=
  let b := !s.ras.actB
  let p := planeOf s b
  if p.st = 2 || p.st = 1 || !(if b then s.ras.io1 else s.ras.io0) then s
  else setPlane s b { p with st := 0, fw := (activePlane s).fw, conf := s.cfg.confImg }

/-- Restore the last margin plan of a cluster (R443, R510, R513). -/
def restoreMargin (s : State) (c : Nat) : State :=
  match (s.flash.margin.filter (·.clu = c)).getLast? with
  | none => s
  | some r =>
    let s := modClu s c fun k => { k with offset := r.offset, kv := r.kv, kf := r.kf, plan := none, lower := none }
    ((tilesOf c).zip r.fracs).foldl (fun s x => modRas s x.1 fun y => { y with frac := x.2, next := none }) s

/-- Restore the sparing marks and the last margin plan of a cluster (R416, R443, R510). -/
def restoreCluster (s : State) (c : Nat) : State :=
  let m := tget s.flash.marks c {}
  let sp : BitVec 11 := if m.spare = 15 then 0 else BitVec.ofNat 11 (1 <<< m.spare.toNat)
  let s := modClu s c fun k => { k with active := ~~~(m.retired ||| sp), retired := m.retired, spare := m.spare, up := m.up, filling := false }
  let s := (List.range 11).foldl (fun s i =>
    modRas s (16 * c + i) fun x => { x with st := if bit m.inter.toNat i then 5 else if bit m.retired.toNat i then 4 else if m.spare.toNat = i then 1 else 0 }) s
  restoreMargin s c

/-- Configuration ends: SELFTEST begins (R507, R510). -/
def endConfigure (s : State) : State := setState { s with cfg := { s.cfg with tested := false } } .selftest

/-- The permanent redirects that the flash keeps are restored before a stack is used (R303). Their words come back to slots in the order of
retirement (log entry 115). -/
def restoreSlots (s : State) : State :=
  let l := (List.range 8).flatMap fun k =>
    ((s.flash.redirects.filter fun x => x.1 = k && x.2.kind = 2).zipIdx).map fun x => (rowNo k (rowKeyOf x.1.2.pc x.1.2.blk), 1024 * k + x.2)
  { s with mem := { s.mem with slots := l.foldl (fun t x => tins t x.1 x.2) [] } }

/-- CONFIGURE (R510, R516 to R518): control firmware starts, or, where it waits, an image that has come meanwhile is taken. -/
def execConfigure (s : State) : Res :=
  .next (if s.pwr.phase ≠ .on then s
    else if s.cfg.st = .powerup && !s.fwu.recovery && (activePlane s).fw ≠ [] then
      let f := s.flash
      let s := { s with flash := { f with ctr2 := sat 0xFFFFFFFF (f.ctr2 + 1), cfgA := f.cfgA.settle, cfgB := f.cfgB.settle },
                        cfg := { s.cfg with cause := 0 } }
      let s := restoreSlots (readOwner (deriveAk (bumpGen (setState s .configure))))
      let s := (List.range 16).foldl restoreCluster s
      if !ownerSound s then waitConfig s 0x0A03
      else match pickConfig s (·.st = 2) with
        | some b => endConfigure (startStandby (takeConfig s true b))
        | none => waitConfig s 0x0A09
    else if s.cfg.st = .configure && s.cfg.waiting then
      match (if ownerSound s then pickConfig s (fun x => x.st = 1 || x.st = 2) else none) with
      | some b =>
        let x := cfgSlot s b
        let s := setCfgSlot s b { x with st := 2 }
        let s := { s with flash := { s.flash with ctr1 := max s.flash.ctr1 (imgCfloor x.img) } }
        let cold := firstImage s
        let s := if cold then { s with mem := { s.mem with cells := [], err := [] } } else s
        endConfigure (startStandby (takeConfig (readOwner s) cold b))
      | none => s
    else s)

/-! ### Self-test and entry into service (R507, R510, R511) -/

/-- A tile fails its test in SELFTEST (R511). A retired tile, one of a cluster out of service, and a number that names no tile (R33) are not tested. -/
def failSelftest (s : State) (t : Nat) : State :=
  if 11 ≤ t % 16 || !cluUp s (t / 16) || (rasOf s t).st = 4 || (rasOf s t).st = 5 then s
  else
    let a := if (rasOf s t).st = 1 then 3 else retireAction s t
    let s := startFill (raiseKept s 0 4 5 a t) t
    writeMarks (modRas (markRetired s t) t fun x => { x with st := 4 }) (t / 16)

/-- The regulators that fail their test leave service (R37, R511). -/
def failRegulators (s : State) (l : List Nat) : State := l.foldl (fun s c => if cluUp s c then removeCluster s c 5 else s) s

/-- SELFTEST is limited in a warm reset, to the regulator tests and the restore of the margin plan (R513): once SERVICE has been entered since the cold
start (log entry 126). -/
def limitedTest (s : State) (failRegs : List Nat) : State :=
  let s := (List.range 16).foldl restoreMargin (failRegulators s failRegs)
  { s with cfg := { s.cfg with tested := true } }

/-- SELFTEST (R510, R511, R513) -/
def execSelftest (failTiles : List TileNo) (failRegs : List (Fin 16)) (kv kf : List (BitVec 4)) (samples : List Sample) (s : State) : Res :=
  .next (if s.pwr.phase ≠ .on || s.cfg.st ≠ .selftest then s
    else if s.cfg.served then limitedTest s (failRegs.map Fin.val)
    else
      let s := failTiles.foldl (fun s t => failSelftest s t.toNat) s
      let s := failRegulators s (failRegs.map Fin.val)
      let s := (List.range 16).foldl (fun s c => modClu s c fun k => { k with kv := (kv.getD c 0).toNat, kf := (kf.getD c 0).toNat }) s
      replanAll (samples.foldl addSample { s with cfg := { s.cfg with tested := true } }))

/-- Every port that may train begins to (R350, R513). -/
def trainPorts (s : State) : State := (List.range 8).foldl startTraining s

/-- What follows the first entry after a cold start (R356, R460): HELLO and, at a replacement, ADOPT to the escort. -/
def greetEscort (s : State) : State :=
  let c := s.cfg.conf
  if !c.escEn then s else 
    sendAdopt { s with esc := { s.esc with adopting := true } }

/-- Enter SERVICE, or MAINTENANCE where to_maint asks for it and the image permits it (R507). -/
def enterService (s : State) : State :=
  let s := setState s (if s.cfg.toMaint && s.cfg.conf.maintOk then .maintenance else .service)
  { s with cfg := { s.cfg with entered := true, served := true } }

/-- SELFTEST ends (R510, R513): after a cold start the escort is greeted, after a warm reset the journals resume. -/
def goService (s : State) : State :=
  let t := trainPorts (enterService s)
  flushHost (if s.cfg.served then rewindLog (rewriteAwb (resumeJournals t)) else greetEscort t)

/-- SERVICE_ENTRY (R510) -/
def execServiceEntry (s : State) : Res :=
  .next (if s.pwr.phase ≠ .on || s.cfg.st ≠ .selftest || !s.cfg.tested then s else goService s)

/-! ### Warm reset (R280, R497, R513, R560, R575) -/

/-- The staging region and the workspace pool read as zero (R280). -/
def clearScratch (s : State) : State :=
  let c := s.cfg.conf
  let a := rgnBase c 1 * page
  let b := rgnBase c 3 * page
  { s with mem := { s.mem with cells := tdrop s.mem.cells a b, err := tdrop s.mem.err (a / 32) (b / 32) } }

/-- Keys, sessions and the MSI-X state go back to their reset values (R559, R560, R562, R575). -/
def clearHost (s : State) : State :=
  { s with sec := { s.sec with ide := 0, sess := [], half := [], lock := false, heldMeas := [] },
           hif := { s.hif with msix := [], pba := [], fmask := false, msixEn := false } }

/-- The device takes requests for a warm reset (R509, R513): from CONFIGURE on, HOLD apart. -/
def resettable (s : State) : Bool := serviceOn s

/-- The device may reset now (R497, R513): no handover runs and p_ref is at most 700 W above the draw with every tile idle. -/
def warmReady (s : State) : Bool := s.cfg.warmWait && resettable s && !s.cfg.handover && s.pwr.pref ≤ s.pwr.uMw + 700000

/-- A warm reset (R513). Which regulators fail their test is a free value. A device that has not entered SERVICE since its cold start goes on with
SELFTEST as that has it (log entry 126). -/
def warmReset (s : State) : State :=
  let s := { s with cfg := { s.cfg with warmWait := false, maintReq := 0, handover := false, entered := false, cause := 1 } }
  let s := clearHost (clearScratch (loseScratch (abandonJobs s)))
  let img := (fwSlot s s.flash.fwIn).img
  let a := activePlane s
  let s := if fwStatus s img = 0 then setPlane s s.ras.actB { a with fw := img } else s
  let s := readOwner (deriveAk (bumpGen (setState s .configure)))
  let s := retrainLink s
  if !ownerSound s then waitConfig s 0x0A03
  else match pickConfig s (·.st = 2) with
    | none => waitConfig s 0x0A09
    | some b =>
      let s := endConfigure (startStandby (takeConfig s (firstImage s) b))
      if !s.cfg.served then s
      else
        let v := (Config.freeValue s.free).toNat
        goService (limitedTest (freshFree s) ((List.range 16).filter fun c => bit v c))

end Sys2Proof.Machine
end

