-- ==== Sys2Proof/Machine/Regs.lean ====
section
/-! DEFINITION. What a read of a BAR0 register returns (R21, R99, R100, R182 to R184, R188, R209, R230 to R240, R259, R270, R271, R305, R306,
R338, R384 to R386, R407, R412, R445 to R447, R482, R483, R506, R533, R564, R565, R571, R575 to R581), the measurement blocks (R558), and
the selection registers. -/

namespace Sys2Proof.Machine

/-- A register word from its fields: lowest bit, width, value. -/
def pack (l : List (Nat × Nat × Nat)) : Nat := l.foldl (fun a x => a + (x.2.2 % 2 ^ x.2.1) <<< x.1) 0

/-- Bit n is 1 where a condition holds of n. -/
def maskOf (n : Nat) (f : Nat → Bool) : Nat := (List.range n).foldl (fun a i => if f i then a + 2 ^ i else a) 0

/-- The 8-byte word j of a digest, bytes in order. -/
def digWord (d : List Byte) (j : Nat) : Nat := wordAt d (8 * j)

/-! ### Words that other blocks read too -/

/-- The code of a device state (R533). -/
def DState.code : DState → Nat
  | .powerup => 0 | .configure => 1 | .selftest => 2 | .service => 3 | .maintenance => 4 | .hold => 5

/-- CFG_STATE (R533) -/
def cfgState (s : State) : Nat :=
  let c := s.cfg
  pack [(0, 3, c.st.code), (3, 1, b2n c.handover), (4, 1, b2n c.waiting), (5, 1, b2n c.unowned), (6, 1, b2n c.pendCold), (8, 2, c.cause)]

/-- FWU_STAT (R564) -/
def fwuStat (s : State) : Nat :=
  let f := s.fwu
  let l := s.flash
  pack [(0, 1, b2n (f.op ≠ 0 || s.cfg.handover || s.cfg.busy ≠ 0)), (1, 1, b2n f.window), (2, 1, b2n f.recovery), (3, 1, b2n l.fwIn), (4, 2, l.fwA.st), (6, 2, l.fwB.st),
    (8, 2, l.staged), (16, 16, f.last.toNat), (32, 32, f.remain)]

/-- The usable tiles as the registers report them (R270, R445): none before SELFTEST has ended (R510). -/
def usableTiles (s : State) : List Nat := if s.cfg.tested || consuming s then allTiles.filter (tileUp s) else []

/-- RAS_CAP (R445): a cluster that is frozen or withdrawn for its self-tests (R420, R431) is not in service. -/
def rasCap (s : State) : Nat :=
  let r := s.ras
  pack [(0, 8, (usableTiles s).length), (8, 16, maskOf 16 fun c => cluUp s c && (cluOf s c).ivrOk && !(cluOf s c).wd), (24, 4, r.pairs.toNat), (28, 8, maskOf 8 fun k => !(stackOf s k).lost),
    (36, 8, portMask s (·.st = 2)), (44, 1, b2n s.lm0.ok), (45, 1, b2n s.lm1.ok), (46, 1, b2n (r.planeA.st = 0)), (47, 1, b2n (r.planeB.st = 0)),
    (48, 1, b2n r.io0), (49, 1, b2n r.io1), (50, 6, r.fab.toNat), (56, 1, b2n (degraded s)), (57, 1, b2n (inHold s))]

/-- The image of the standby plane; none with no standby (R48, R564). -/
def standbyFw (s : State) : List Byte := if standbyOk s then (planeOf s (!s.ras.actB)).fw else []

/-! ### Measurements (R558, R565) -/

/-- The value types of measurement blocks (R558). -/
inductive MeasType where
  | immutableRom | mutableFirmware | hardwareConfig | firmwareConfig
deriving DecidableEq, Repr

/-- The value type of a block (R558). -/
def measType (i : Nat) : MeasType :=
  if i = 1 then .immutableRom else if i = 2 || i = 3 then .mutableFirmware else if i = 8 then .hardwareConfig else .firmwareConfig

/-- The code of a value type in an SPDM answer, which DMTF gives (log entry 11). -/
def MeasType.code : MeasType → Nat
  | .immutableRom => 0 | .mutableFirmware => 1 | .hardwareConfig => 2 | .firmwareConfig => 3

/-- The value of a measurement block and whether it is a digest; none outside 1 to 8. -/
def measBlock (s : State) (i : Nat) : Option (Bool × List Byte) :=
  match i with
  | 1 => some (true, natLe 48 Config.romMeasurement.toNat)
  | 2 => some (true, measure (activePlane s).fw)
  | 3 => some (true, if standbyFw s = [] then List.replicate 48 0 else measure (standbyFw s))
  | 4 => some (true, measure s.cfg.confImg)
  | 5 => some (false, slice s.cfg.ownDig 0 48 ++ natLe 4 s.flash.ctr3)
  | 6 => some (false, fwNl (activePlane s).fw)
  | 7 => some (false, natLe 4 s.flash.ctr0 ++ natLe 4 s.flash.ctr1)
  | 8 => some (false, natLe 2 Config.hwRev.toNat ++ natLe 2 (cfgState s) ++ natLe 4 (fwuStat s) ++ natLe 8 (rasCap s) ++ List.replicate 8 0)
  | _ => none

/-- What SEC_MEAS0 to SEC_MEAS5 report of a block (R565): its digest, or the SHA-384 of a raw value; zero where there is none. -/
def measReg (s : State) (i : Nat) : List Byte :=
  match measBlock s i with
  | some (true, d) => d
  | some (false, d) => sha384 d
  | none => List.replicate 48 0

/-! ### The capability chain (R578 to R581, R99, R100, R407) -/

/-- The capabilities in id order, each with its words after the header. -/
def caps (s : State) : List (Nat × List Nat) :=
  let c := s.cfg.conf
  let fw := (activePlane s).fw
  let ver := pack [(0, 32, fwVer fw), (32, 32, fwSvn fw)]
  let mib (u : Nat) : Nat := 2 * u
  [(1, [pack [(0, 16, Config.hwRev.toNat), (16, 1, b2n s.ras.actB)], Config.serial.toNat, ver,
      pack [(0, 16, c.node.toNat), (16, 16, c.domain.toNat), (32, 16, c.feed.toNat)]]),
   (2, ((List.range 4).map fun i => wordAt (nlMask s) (8 * i)) ++ [((List.range 256).reverse.find? (nlCarried s)).getD 0]),
   (3, [0x0000000100070F3E, 0x1F33FE]),
   (4, [pack [(0, 8, 0xC0), (8, 8, 0x28), (16, 3, 7), (19, 1, 1), (20, 1, 1), (24, 9, 0x100)]]),
   (5, [pack [(0, 32, 0x10000), (32, 32, 0x4000)], pack [(0, 16, 0x800), (16, 4, 0xC), (20, 4, 0xA), (24, 8, 0xFF), (32, 32, mib c.ret - 16)]]),
   (6, [pack [(0, 8, 0xB0), (8, 8, 0x10), (16, 8, 0x40), (24, 8, 0x40), (32, 32, c.wsCeil)]]),
   (7, [pack [(0, 4, 4), (4, 12, 0x100), (16, 8, 0x40), (24, 8, 0x20), (32, 32, mib (rgnSize c 0))]]),
   (8, [pack [(0, 4, 8), (8, 8, 0x30), (16, 8, 0x20), (24, 4, c.rsv), (32, 16, 0x400)]]),
   (9, [pack [(0, 4, 8), (4, 4, 9), (8, 8, 4), (16, 16, 0x800), (32, 16, 0x400)]]),
   (10, [pack [(0, 16, 0x1000), (16, 16, 0x100), (32, 32, 0x100000)]]),
   (11, [pack [(0, 4, 8), (4, 7, 0x40), (16, 8, 3), (24, 3, 7)]]),
   (12, [pack [(0, 8, 1), (8, 8, 1), (16, 16, 0x2000), (32, 16, 0x1000), (48, 16, 0x1000)]]),
   (13, [pack [(0, 6, 0x3F), (8, 8, 0x18), (16, 16, 0x1000), (32, 8, 8)]]),
   (14, [pack [(0, 12, 0x960), (12, 12, 0x320), (24, 11, 0x7D0), (35, 11, 0x14), (46, 6, 0x3C)]]),
   (15, [pack [(0, 13, 0x1000), (16, 16, 0x258), (32, 2, 2)]]),
   (16, [pack [(0, 1, 1), (1, 1, 1), (2, 1, 1), (4, 3, 4), (8, 8, 4), (16, 8, 0x13)]])]

/-- Lay the chain out in id order, each capability at the next multiple of 16 bytes: pairs of offset and word. -/
def layCaps : Nat → List (Nat × List Nat) → List (Nat × Nat)
  | _, [] => []
  | off, (id, ws) :: r =>
    let len := 8 + 8 * ws.length
    let next := off + cdiv len 16 * 16
    let h := pack [(0, 16, id), (16, 8, 1), (32, 16, len), (48, 16, if r = [] then 0 else next / 16)]
    (off, h) :: (ws.zipIdx.map fun x => (off + 8 + 8 * x.2, x.1)) ++ layCaps next r

/-- A word of the capability chain. -/
def capWord (s : State) (off : Nat) : Nat := match (layCaps 0x100 (caps s)).find? (·.1 = off) with | some x => x.2 | none => 0

/-! ### The blocks -/

/-- The HIF block, the MSI-X table and the PBA (R575, R577). -/
def readHif (s : State) (o : Nat) : Nat :=
  let h := s.hif
  if o = 0 then pack [(0, 16, Config.vendorId.toNat), (16, 16, 0x0384), (32, 16, Config.hwRev.toNat)]
  else if o = 8 then h.gen.toNat
  else if o = 0x10 then pack [(0, 3, h.rate), (3, 4, h.width), (7, 1, b2n h.flit), (16, 16, h.retrains)]
  else if o = 0x18 then pack [(0, 16, h.badAcc), (16, 16, h.poison), (32, 1, b2n h.badNew), (33, 1, b2n h.poisonNew)]
  else if o = 0x20 then h.errAddr.toNat
  else if o = 0x28 then h.evtCfg.toNat
  else if o = 0x30 then h.evt.toNat
  else if o < 0x100 then 0
  else if o < 0x8000 then capWord s o
  else if o < 0x10000 then (tget h.msix ((o - 0x8000) / 8) (msixDflt ((o - 0x8000) / 8))).toNat
  else if o < 0x10100 then maskOf 64 fun i => h.pba.contains ((o - 0x10000) * 8 + i)
  else 0

/-- The families with accepted commands still to complete (R233); a record that was checked before the disable and waits for its escort is one of
them. -/
def famBusy (s : State) (f : Nat) : Bool :=
  s.cmd.streams.any fun x => x.2.journal.any fun e =>
    !e.refused && (e.st = .pending || e.st = .accepted || e.st = .running) && famOf (rOpc e.bytes) = some f

/-- The state of a stream (R186, R188). -/
def strmState (x : Stream) : Nat :=
  if !x.opened then 0 else if x.closing then (if x.paused then 4 else 3) else if x.paused then 2 else 1

/-- The CMD block (R188, R230, R232, R234, R240). -/
def readCmd (s : State) (m : Sel) (o : Nat) : Nat :=
  let x := strmOf s m.strm.toNat
  let r := ringOf s m.cring.toNat
  let b := s.cmd.brk
  let dis (i : Nat) : Bool := bit s.cmd.fnDis.toNat i
  if 0x4000 ≤ o then
    if o < 0x8000 then (let q := ringOf s ((o - 0x4000) / 8); pack [(0, 32, q.head.toNat), (32, 32, q.tail.toNat)]) else 0
  else match o with
  | 0x00 => m.strm.toNat
  | 0x08 => (x.cfg &&& strmMask).toNat
  | 0x18 => pack [(0, 3, strmState x), (3, 1, b2n x.escOk), (4, 1, b2n x.ovr), (5, 1, b2n x.openErr), (16, 11, jUsed x)]
  | 0x20 => x.qbase
  | 0x28 => x.nseq.toNat
  | 0x30 => x.cseq.toNat
  | 0x100 => m.cring.toNat
  | 0x108 => r.base.toNat
  | 0x110 => r.cfg.toNat
  | 0x200 => m.sync.toNat
  | 0x208 => (syncOf s m.sync.toNat).toNat
  | 0x300 => b.ctl.toNat
  | 0x308 => b.cnt.toNat
  | 0x310 => b.tag.toNat
  | 0x318 => b.hit.toNat
  | 0x320 => b.seq.toNat
  | 0x400 => s.cmd.fnDis.toNat
  | 0x408 => maskOf 8 (fun i => dis i && famBusy s i) + (maskOf 8 fun i => dis i && !famBusy s i) <<< 8
  | _ => 0

/-- IM-A or IM-B as TIL_IMSTAT_A and TIL_IMSTAT_B report it (R184). -/
def imStat (x : Tile) (bankB : Bool) : Nat :=
  let b := if bankB then x.imB else x.imA
  let act := x.actB = bankB
  pack [(0, 1, b2n b.valid), (1, 1, b2n (b.valid && act)), (2, 1, b2n (b.loading || (x.pendSw && !act))), (16, 16, b.pid.toNat), (32, 32, b.gen.toNat)]

/-- The TIL block (R182 to R184, R259, R270, R271). -/
def readTil (s : State) (m : Sel) (o : Nat) : Nat :=
  let t := s.til
  let up := usableTiles s
  let pl := tget t.plans m.pln.toNat (0, 0, 0)
  match o with
  | 0x100 => t.sflt.1.toNat
  | 0x108 => t.sflt.2.1.toNat
  | 0x110 => t.sflt.2.2.1.toNat
  | 0x118 => t.sflt.2.2.2.toNat
  | 0x200 => m.im.toNat
  | 0x208 => imStat (tileOf s m.im.toNat) false
  | 0x210 => imStat (tileOf s m.im.toNat) true
  | 0x400 => pack [(0, 6, m.vo.toNat), (8, 1, b2n t.voErr)]
  | 0x408 => (voOf s m.vo.toNat).toNat
  | 0x410 => m.vob.toNat
  | 0x418 => (tget t.bind m.vob.toNat 0).toNat
  | 0x500 => pack [(0, 32, sat 0xFFFFFFFF ((t.srv.map Batch.left).sum)), (32, 32, sat 0xFFFFFFFF ((t.trn.map Batch.left).sum))]
  | 0x508 => pack [(0, 8, up.length), (16, 12, (up.map fun i => (rasOf s i).frac).sum)]
  | 0x510 => m.tile.toNat
  | 0x518 => (tileOf s m.tile.toNat).jobs
  | 0x520 => (tileOf s m.tile.toNat).busy
  | 0x600 => m.pln.toNat
  | 0x608 => pl.1.toNat
  | 0x610 => pl.2.1.toNat
  | 0x618 => pl.2.2.toNat
  | _ => 0

/-- The SER block (R305). Class 7 reads as zero (R304). -/
def readSer (s : State) (m : Sel) (o : Nat) : Nat :=
  let r := s.ser
  let c := s.cfg.conf
  let sl := bits m.bw.toNat 0 2
  let cls := bits m.bw.toNat 4 3
  match o with
  | 0x00 => m.rgn.toNat
  | 0x08 => if s.cfg.st = .powerup && !s.fwu.recovery then 0 else pack [(0, 10, rgnBase c m.rgn.toNat), (16, 11, rgnSize c m.rgn.toNat)]
  | 0x10 => pack [(0, 4, r.up.toNat), (4, 1, b2n r.rebuild)]
  | 0x100 => pack [(0, 32, r.ce), (32, 16, r.ue), (48, 1, b2n r.paViol), (49, 1, b2n r.ueNew)]
  | 0x108 => r.errAddr
  | 0x110 => pack [(0, 16, c.sMin), (32, 32, r.passes)]
  | 0x200 => m.bw.toNat
  | 0x208 => if cls = 7 then 0 else tget r.bw (8 * sl + cls) 0
  | 0x210 => tget r.stall sl 0
  | _ => 0

/-- The HBM block (R306). -/
def readHbm (s : State) (m : Sel) (o : Nat) : Nat :=
  let k := stackOf s m.stk.toNat
  match o with
  | 0x00 => m.stk.toNat
  | 0x08 => pack [(0, 2, if k.lost then 2 else if k.degraded then 1 else 0), (16, 11, k.used), (32, 16, k.log.length)]
  | 0x10 => pack [(0, 32, k.ce), (32, 16, k.ue), (48, 1, b2n k.ueNew)]
  | 0x18 => k.errAddr
  | 0x20 => pack [(0, 8, s.cfg.conf.hHr), (32, 32, s.hbm.passes)]
  | 0x28 => k.bwRd
  | 0x30 => k.bwWr
  | 0x100 => m.ret.toNat
  | 0x108 => match k.log[m.ret.toNat]? with
    | some e => pack [(0, 5, e.pc), (5, 6, e.bank), (11, 18, e.row), (29, 2, e.kind), (31, 1, b2n e.cause)]
    | none => 0
  | _ => 0

/-- The TRN block (R338); `work` says whether the unit processes a command. -/
def readTrn (s : State) (work : Bool) (m : Sel) (o : Nat) : Nat :=
  let u := tget s.hbm.units m.uu.toNat {}
  match o with
  | 0x00 => m.uu.toNat
  | 0x08 => pack [(0, 1, b2n u.up), (1, 1, b2n (u.up && work)), (2, 1, b2n u.staged)]
  | 0x10 => u.elems
  | 0x18 => u.fclk
  | 0x100 => pack [(0, 32, s.hbm.optSkip), (32, 32, s.hbm.corr)]
  | _ => 0

/-- The LNK block (R384 to R386). -/
def readLnk (s : State) (m : Sel) (o : Nat) : Nat :=
  let q := portOf s m.port.toNat
  let c := s.cfg.conf
  let g := groupOf s m.grp.toNat
  let h := groupOf s m.strg.toNat
  match o with
  | 0x00 => m.port.toNat
  | 0x08 => pack [(0, 3, q.st), (3, 1, b2n (q.map.contains 8)), (4, 9, q.laneOk.toNat), (16, 4, q.gen.toNat), (20, 4, q.plane.toNat), (24, 4, q.cause)]
  | 0x10 => b2n q.dis
  | 0x18 => q.fec
  | 0x20 => pack [(0, 32, q.ucw), (32, 32, q.crc)]
  | 0x28 => pack [(0, 32, q.replays), (32, 16, q.retrains), (48, 8, q.spares)]
  | 0x30 => q.tx
  | 0x38 => q.rx
  | 0x100 => pack [(0, 16, c.node.toNat), (16, 16, c.feed.toNat), (32, 16, c.domain.toNat)]
  | 0x108 => pack [(0, 32, s.lnk.retx), (32, 16, s.lnk.giveup), (48, 16, s.lnk.discard)]
  | 0x200 => m.grp.toNat
  | 0x208 => pack [(0, 1, b2n g.valid), (1, 1, b2n g.dropOk), (16, 16, g.members.length - 1), (32, 16, g.rank)]
  | 0x210 => g.epoch.toNat
  | 0x218 => g.list
  | 0x228 => b2n g.wrErr
  | 0x230 => g.cseq.toNat
  | 0x300 => m.strg.toNat
  | 0x308 => pack [(0, 16, h.slowRank), (16, 32, h.slowGap)]
  | 0x310 => pack [(0, 32, h.ownGap), (32, 32, h.selfSlow)]
  | 0x318 => h.waitUs
  | _ => 0

/-- The EVD block (R412). -/
def readEvd (s : State) (o : Nat) : Nat :=
  let v := s.evd
  match o with
  | 0x00 => pack [(0, 16, s.cfg.conf.sealMs), (16, 16, 0x1000)]
  | 0x08 => v.base.toNat
  | 0x10 => v.cfg.toNat
  | 0x18 => pack [(0, 32, v.head.toNat), (32, 32, v.tail.toNat)]
  | 0x20 => pack [(0, 14, v.queue.length), (14, 1, b2n (v.sealed ≠ [] && !logRoom s)), (15, 1, b2n (signOk s)), (32, 32, (incarnation s).toNat)]
  | 0x28 => v.serial
  | 0x30 => v.sserial
  | _ => 0

/-- Whether a job is rebuilt: RAS_JOB_RBLD (R483). -/
def jobRbld (s : State) : Nat := pack [(0, 32, rebuilt s), (32, 32, s.job.total)]

/-- The state of the escort (R482): unreachable while no plane leads to it or its HELLO has not been compared. -/
def escState (s : State) : Nat :=
  let c := s.cfg.conf
  let p := peerOf s c.escort.toNat
  if !c.escEn then 0 else if s.esc.st = 0 || !p.known || p.lost || planesTo s c.escort.toNat = [] then 4 else s.esc.st

/-- The RAS block (R445 to R447, R482, R483). -/
def readRas (s : State) (m : Sel) (o : Nat) : Nat :=
  let k := cluOf s m.clu.toNat
  let t := m.rtile.toNat
  let x := rasOf s t
  let ev := s.ras.events.find? (·.serial = m.evt.toNat)
  let d := escSlot s m.escd.toNat
  let j := s.job
  let c := s.cfg.conf
  match o with
  | 0x000 => rasCap s
  | 0x100 => m.clu.toNat
  | 0x108 => pack [(0, 11, k.active.toNat), (11, 11, k.retired.toNat), (22, 4, k.spare.toNat), (26, 1, b2n k.filling), (27, 1, b2n k.ivrOk)]
  | 0x110 => t
  | 0x118 => pack [(0, 3, x.st), (3, 5, x.frac), (8, 8, sat 0xFF (recent s x.trans).length), (16, 8, sat 0xFF ((slackOf s t).getD 0)), (24, 1, b2n x.wrErr)]
  | 0x200 => m.evt.toNat
  | 0x208 => match ev with
    | some e => pack [(0, 32, e.serial), (32, 8, e.det), (40, 3, e.level), (43, 4, e.verdict), (47, 4, e.action), (63, 1, 1)]
    | none => 0
  | 0x210 => match ev with | some e => pack [(0, 32, e.loc), (32, 32, e.poh)] | none => 0
  | 0x218 => match ev with | some e => pack [(0, 16, e.st), (16, 16, e.tag), (32, 32, e.job)] | none => 0
  | 0x220 => match ev with | some e => e.seq.toNat | none => 0
  | 0x228 => s.ras.next
  | 0x230 => s.ras.irq.toNat
  | 0x300 => s.ras.shadow.toNat
  | 0x308 => pack [(0, 32, s.ras.shdJobs), (32, 32, s.ras.shdMism)]
  | 0x400 => pack [(0, 8, c.sReq), (8, 8, c.dTrig)]
  | 0x410 => pack [(0, 6, unsgn 6 k.offset), (6, 6, if k.kv = 0 then 0 else (oMax - k.offset).toNat), (12, 4, k.kv), (16, 4, k.kf), (32, 32, k.predict)]
  | 0x418 => pack [(0, 8, x.worst), (8, 5, x.mon)]
  | 0x500 => pack [(0, 16, c.escort.toNat), (16, 16, s.esc.feed.toNat), (32, 3, escState s), (48, 16, sat 0xFFFF s.esc.wd.length)]
  | 0x508 => m.escd.toNat
  | 0x510 => pack [(0, 16, d.node.toNat), (16, 2, d.st), (32, 32, d.items.length)]
  | 0x518 => d.inc.toNat
  | 0x520 => pack [(0, 3, j.st), (3, 1, b2n j.wrErr), (4, 1, b2n j.drop), (16, 16, j.lost.toNat), (32, 32, match j.held with | some h => h.serial | none => 0)]
  | 0x528 => if j.cur.isNone then 0 else pack [(0, 32, j.acked), (32, 32, j.copied)]
  | 0x538 => jobRbld s
  | _ => 0

/-- The light of the modules in percent (R602): while one ramps, it has a share of up to half, which the spec does not fix, and the other
the rest. Before the boot ROM starts there is no light (R506, log entry 1). -/
def lightPct (s : State) : Nat × Nat :=
  let x := (Config.freeValue s.free).toNat
  if s.cfg.st = .powerup && !s.clk.lock then (0, 0)
  else if s.lm0.ramp && s.lm1.ok then (x % 51, 100 - x % 51)
  else if s.lm1.ramp && s.lm0.ok then (100 - x % 51, x % 51)
  else if s.lm0.ramp then (x % 101, s.lm1.pct)
  else if s.lm1.ramp then (s.lm0.pct, x % 101)
  else (s.lm0.pct, s.lm1.pct)

/-- The mean input power of the last 1 ms in W (R506). -/
def pinW (p : Pwr) : Nat := if p.pins = [] then 0 else p.pins.sum / p.pins.length / 1000

/-- The PWR block (R506). -/
def readPwr (s : State) (o : Nat) : Nat :=
  let p := s.pwr
  let w (mw : Nat) : Nat := sat 0xFFF (mw / 1000)
  let l := s.flash.pwrLast
  match o with
  | 0x00 => pack [(0, 12, p.cap), (12, 11, p.slope), (23, 6, p.floorQ), (29, 1, b2n p.floorEn), (30, 6, p.win)]
  | 0x08 => p.ucap.toNat
  | 0x10 => pack [(0, 12, sat 0xFFF (pinW p)), (12, 12, w p.pref), (24, 12, w p.floorMw), (36, 12, w p.limMw), (48, 1, b2n p.capBound),
      (49, 1, b2n p.floorBound), (50, 1, b2n (p.thcap < p.cap)), (51, 1, b2n p.startup)]
  | 0x18 => pack [(0, 13, if p.pins = [] then 0 else p.vin), (16, 8, p.tj), (24, 8, p.thbm), (32, 12, w ((p.bal.map Prod.snd).sum)), (44, 12, w p.clamp)]
  | 0x20 => p.tollFloor / 100000
  | 0x28 => p.tollRamp / 100000
  | 0x30 => p.ein / 100000
  | 0x38 => pack [(0, 16, l.1.toNat), (16, 16, l.2.1), (32, 32, l.2.2)]
  | 0x40 => pack [(0, 8, p.blank.toNat), (16, 7, (lightPct s).1), (24, 7, (lightPct s).2)]
  | _ => 0

/-- The CFG block (R533). -/
def readCfg (s : State) (o : Nat) : Nat :=
  let l := s.flash
  let c := s.cfg
  match o with
  | 0x00 => cfgState s
  | 0x08 => pack [(0, 1, b2n l.cfgIn), (1, 2, l.cfgA.st), (3, 2, l.cfgB.st), (16, 16, c.last.toNat), (32, 32, c.cver)]
  | 0x10 => pack [(0, 32, l.ctr1), (32, 32, l.ctr3)]
  | 0x20 | 0x28 | 0x30 | 0x38 | 0x40 | 0x48 => if c.unowned then 0 else digWord c.ownDig ((o - 0x20) / 8)
  | 0x58 => b2n c.toMaint
  | _ => 0

/-- The FWU block (R564). -/
def readFwu (s : State) (o : Nat) : Nat :=
  let ver (f : List Byte) : Nat := if f = [] then 0 else pack [(0, 32, fwVer f), (32, 32, fwSvn f)]
  match o with
  | 0x00 => s.fwu.src.toNat
  | 0x08 => s.fwu.len.toNat
  | 0x18 => fwuStat s
  | 0x20 => s.flash.units.length
  | 0x28 => ver (activePlane s).fw
  | 0x30 => ver (standbyFw s)
  | 0x38 => pack [(0, 32, s.flash.ctr0), (32, 16, s.fwu.rsf.toNat)]
  | _ => 0

/-- The SEC block (R565). -/
def readSec (s : State) (m : Sel) (o : Nat) : Nat :=
  let c := s.sec
  let n (tr : Bool) : Nat := (c.sess.filter (·.1 = tr)).length
  if o = 0 then pack [(0, 1, b2n (signOk s)), (1, 1, bits c.ide.toNat 0 1), (2, 4, bits c.ide.toNat 1 4), (6, 1, b2n c.ideFail), (7, 3, n true), (10, 3, n false)]
  else if o = 8 then b2n c.lock
  else if o < 0x10 then 0
  else if o < 0x40 then digWord (devDig s) ((o - 0x10) / 8)
  else if o < 0x70 then digWord (keyId s) ((o - 0x40) / 8)
  else if o = 0x70 then m.meas.toNat
  else if o < 0xA8 then digWord (measReg s m.meas.toNat) ((o - 0x78) / 8)
  else 0

/-- The register at a BAR0 offset, a multiple of 8, under a copy of the selection registers (R571, R576). -/
def readReg (s : State) (m : Sel) (off : Nat) : Nat :=
  let o := off % 0x100000
  match off / 0x100000 with
  | 0 => readHif s o
  | 1 => readCmd s m o
  | 2 => readTil s m o
  | 4 => readSer s m o
  | 5 => readHbm s m o
  | 6 => readLnk s m o
  | 7 => readTrn s (unitWork s m.uu.toNat) m o
  | 8 => readEvd s o
  | 9 => readRas s m o
  | 10 => readPwr s o
  | 11 => if o = 0 then pack [(0, 1, b2n s.clk.lock), (1, 1, b2n s.clk.refOk), (2, 1, b2n s.clk.hold), (3, 1, b2n s.clk.href), (16, 16, s.clk.ppm.toNat)] else 0
  | 12 => readCfg s o
  | 13 => readFwu s o
  | 14 => readSec s m o
  | _ => 0

/-! ### Selection registers (R33, R571) -/

/-- A selection register: its lowest bits, stored where its offset names one; a number that names no tile is ignored (R33). -/
def selWrite (m : Sel) (off : Nat) (v : Nat) : Option Sel :=
  let tile (f : BitVec 8 → Sel) : Sel := if v % 256 % 16 < 11 then f (BitVec.ofNat 8 v) else m
  match off with
  | 0x100000 => some { m with strm := BitVec.ofNat 16 v }
  | 0x100100 => some { m with cring := BitVec.ofNat 11 v }
  | 0x100200 => some { m with sync := BitVec.ofNat 14 v }
  | 0x200200 => some (tile fun t => { m with im := t })
  | 0x200400 => some { m with vo := BitVec.ofNat 6 v }
  | 0x200410 => some { m with vob := BitVec.ofNat 16 v }
  | 0x200510 => some (tile fun t => { m with tile := t })
  | 0x200600 => some { m with pln := BitVec.ofNat 16 v }
  | 0x400000 => some { m with rgn := BitVec.ofNat 3 v }
  | 0x400200 => some { m with bw := BitVec.ofNat 7 v &&& 0x73 }
  | 0x500000 => some { m with stk := BitVec.ofNat 3 v }
  | 0x500100 => some { m with ret := BitVec.ofNat 16 v }
  | 0x600000 => some { m with port := BitVec.ofNat 3 v }
  | 0x600200 => some { m with grp := BitVec.ofNat 12 v }
  | 0x600300 => some { m with strg := BitVec.ofNat 12 v }
  | 0x700000 => some { m with uu := BitVec.ofNat 3 v }
  | 0x900100 => some { m with clu := BitVec.ofNat 4 v }
  | 0x900110 => some (tile fun t => { m with rtile := t })
  | 0x900200 => some { m with evt := BitVec.ofNat 32 v }
  | 0x900508 => some { m with escd := BitVec.ofNat 3 v }
  | 0xE00070 => some { m with meas := BitVec.ofNat 4 v }
  | _ => none

end Sys2Proof.Machine
end

