-- ==== Sys2Proof/Machine/Spdm.lean ====
section
/-! DEFINITION. SPDM, IDE key management and IDE (R539, R557 to R562). The bytes of the messages are DMTF's and PCI-SIG's, not the spec's: a
reply is the opaque layout of what it holds (log entry 11). -/

namespace Sys2Proof.Machine

/-- DOE or MCTP as the sessions name it. -/
def isDoe : Transport → Bool
  | .doe => true
  | .mctp => false

/-- The responder answers (R50, R557): the device is powered and past CONFIGURE; DOE needs the host link, the management interface IO0. -/
def spdmOn (s : State) (tr : Transport) : Bool :=
  s.pwr.phase = .on && s.cfg.st ≠ .powerup && s.cfg.st ≠ .configure && s.ras.io0 && (!(isDoe tr) || s.hif.up)

/-- A message leaves the responder: its kind and what it holds. -/
def spdmOut (s : State) (doe : Bool) (kind : Nat) (l : List Nat) : State :=
  { s with out := { s.out with spdm := s.out.spdm ++ [(doe, Config.layout (16 + kind) l)] } }

/-- An SPDM ERROR message. -/
def spdmErr (s : State) (doe : Bool) : State := spdmOut s doe 0 []

/-- A row of the responder. -/
def spdmRow (s : State) (tr : Transport) (f : State → Bool → State) : State := if spdmOn s tr then f s (isDoe tr) else s

/-- An answer signed with the attestation key (R557): what is signed is the opaque layout of the answer. -/
def spdmSigned (s : State) (doe : Bool) (kind : Nat) (l : List Nat) : State :=
  if !signOk s then spdmErr s doe
  else
    let g := ecSign (akKey s) (sha384 (Config.layout (48 + kind) l))
    spdmOut s doe kind (l ++ [g.1, g.2])

/-- The chain of a certificate slot (R539): the stored certificates, then the leaf's, which the identity key signs. -/
def certChain (s : State) (slot : Nat) : List Byte :=
  (List.range (Config.certLen slot)).map (Config.certBytes slot) ++ leafCert s slot

/-- The digest of a chain. -/
def certDigest (s : State) (slot : Nat) : Nat := beNat (sha384 (certChain s slot))

/-- GET_VERSION (R557, R581): version 1.3. -/
def execGetVersion (tr : Transport) (s : State) : Res := .next (spdmRow s tr fun s d => spdmOut s d 1 [0x13])

/-- GET_CAPABILITIES (R557): certificates, challenge, signed measurements, key exchange, heartbeat and key update; no mutual
authentication. -/
def execGetCapabilities (tr : Transport) (s : State) : Res := .next (spdmRow s tr fun s d => spdmOut s d 2 [4])

/-- NEGOTIATE_ALGORITHMS (R557): ECDSA on P-384, SHA-384, ECDHE on secp384r1, AES-256-GCM. -/
def execNegotiateAlgorithms (tr : Transport) (s : State) : Res := .next (spdmRow s tr fun s d => spdmOut s d 3 [384, 384, 384, 256])

/-- GET_DIGESTS (R539): slots 0 and 1. -/
def execGetDigests (tr : Transport) (s : State) : Res := .next (spdmRow s tr fun s d => spdmOut s d 4 [certDigest s 0, certDigest s 1])

/-- GET_CERTIFICATE (R539): a portion of the chain and how much is left. -/
def execGetCertificate (tr : Transport) (slot off len : Nat) (s : State) : Res :=
  .next (spdmRow s tr fun s d =>
    let c := certChain s slot
    if 1 < slot || c.length ≤ off then spdmErr s d
    else
      let p := (c.drop off).take len
      spdmOut s d 5 ([slot, p.length, c.length - off - p.length] ++ p.map BitVec.toNat))

/-- CHALLENGE (R557) -/
def execChallenge (tr : Transport) (slot : Nat) (nonce : List Byte) (s : State) : Res :=
  .next (spdmRow s tr fun s d =>
    if 1 < slot then spdmErr s d
    else spdmSigned (freshFree s) d 6 [slot, certDigest s slot, beNat nonce, (Config.freeValue s.free).toNat])

/-- A measurement block as an answer holds it (R558): index, value type, form and value. -/
def measFields (s : State) (i : Nat) : List Nat :=
  match measBlock s i with
  | some (dig, v) => [i, (measType i).code, b2n dig, v.length, beNat v]
  | none => []

/-- The answer to a GET_MEASUREMENTS (R558): index 0 asks for the number of blocks, 0xFF for every block. -/
def answerMeas (s : State) (doe : Bool) (idx : Nat) (nonce : List Byte) : State :=
  if idx = 0 then spdmSigned s doe 7 [0, 8, beNat nonce]
  else if idx = 0xFF then spdmSigned s doe 7 ([0xFF, 8, beNat nonce] ++ (List.range 8).flatMap fun i => measFields s (i + 1))
  else if (measBlock s idx).isSome then spdmSigned s doe 7 ([idx, 1, beNat nonce] ++ measFields s idx)
  else spdmErr s doe

/-- GET_MEASUREMENTS (R558, R559): held while HANDOVER runs. -/
def execGetMeasurements (tr : Transport) (idx : Byte) (nonce : List Byte) (s : State) : Res :=
  .next (spdmRow s tr fun s d =>
    if s.cfg.handover then { s with sec := { s.sec with heldMeas := s.sec.heldMeas ++ [(d, idx.toNat, nonce)] } }
    else answerMeas s d idx.toNat nonce)

/-! ### Sessions (R557, R559) -/

/-- The sessions of a transport, half-open ones counted. -/
def sessions (s : State) (doe : Bool) : List Nat := ((s.sec.sess ++ s.sec.half).filter (·.1 = doe)).map Prod.snd

/-- The lowest number that no session of the transport has (log entry 45). -/
def newSession (s : State) (doe : Bool) : Option Nat := (List.range 4).find? fun i => !(sessions s doe).contains i

/-- KEY_EXCHANGE (R557): up to 4 sessions on each transport; none without the security engine (R50). -/
def execKeyExchange (tr : Transport) (s : State) : Res :=
  .next (spdmRow s tr fun s d =>
    if !signOk s then spdmErr s d
    else match newSession s d with
      | none => spdmErr s d
      | some i =>
        let x := (Config.freeValue s.free).toNat
        spdmSigned (freshFree { s with sec := { s.sec with half := s.sec.half ++ [(d, i)] } }) d 8 [i, x])

/-- FINISH (R557): `ok` says that the requester's check holds; the session is then established, else it ends. -/
def execFinish (tr : Transport) (ses : Nat) (ok : Bool) (s : State) : Res :=
  .next (spdmRow s tr fun s d =>
    if !s.sec.half.contains (d, ses) then spdmErr s d
    else
      let s := { s with sec := { s.sec with half := s.sec.half.filter (· ≠ (d, ses)) } }
      if ok then spdmOut { s with sec := { s.sec with sess := s.sec.sess ++ [(d, ses)] } } d 9 [ses] else spdmErr s d)

/-- A message within an established session. -/
def inSession (s : State) (tr : Transport) (ses : Nat) (f : State → Bool → State) : State :=
  spdmRow s tr fun s d => if s.sec.sess.contains (d, ses) then f s d else spdmErr s d

/-- HEARTBEAT (R557) -/
def execHeartbeat (tr : Transport) (ses : Nat) (s : State) : Res := .next (inSession s tr ses fun s d => spdmOut s d 10 [ses])

/-- KEY_UPDATE (R557): the session goes on under new keys, which nothing shows. -/
def execKeyUpdate (tr : Transport) (ses : Nat) (s : State) : Res := .next (inSession s tr ses fun s d => spdmOut s d 11 [ses])

/-- END_SESSION (R557) -/
def execEndSession (tr : Transport) (ses : Nat) (s : State) : Res :=
  .next (inSession s tr ses fun s d => spdmOut { s with sec := { s.sec with sess := s.sec.sess.filter (· ≠ (d, ses)) } } d 12 [ses])

/-! ### IDE (R560 to R562) -/

/-- The bit of a stream: bit 0 is the link stream. -/
def ideBit (i : Nat) : BitVec 5 := BitVec.ofNat 5 (1 <<< i)

/-- IDE_KM (R50, R560): in an established session over DOE, in FLIT mode; new key exchanges need the security engine. -/
def execIdeKm (ses : Nat) (strm : Fin 5) (s : State) : Res :=
  .next (inSession s .doe ses fun s d =>
    if !signOk s || !s.hif.flit then spdmErr s d
    else spdmOut { s with sec := { s.sec with ide := s.sec.ide ||| ideBit strm.val } } d 13 [ses, strm.val])

/-- IDE_CHECK_FAIL (R561, R563): the stream becomes insecure. -/
def execIdeCheckFail (strm : Fin 5) (s : State) : Res :=
  .next (if !hostOn s || !bit s.sec.ide.toNat strm.val then s
    else fwuStatus { s with sec := { s.sec with ide := s.sec.ide &&& ~~~(ideBit strm.val), ideFail := true } } 0x080D)

/-- Set ide_lock (R562). -/
def lockIde (s : State) : State := { s with sec := { s.sec with lock := true } }

/-- IDE_LOCK (R562) -/
def execIdeLock (sec : Bool) (s : State) : Res := .next (hostRow s sec lockIde)

end Sys2Proof.Machine
end

