-- ==== Sys2Proof/Machine/Firmware.lean ====
section
/-! DEFINITION. Firmware and configuration changes (R519 to R531, R542 to R556), the control planes' lockstep stops (R47, R48, R425), and the
requests of CFG_CTL (R508, R513, R533). -/

namespace Sys2Proof.Machine

/-! ### Staging (R542 to R545) -/

/-- Another operation of R545 runs. -/
def opRuns (s : State) : Bool := s.fwu.op ≠ 0 || s.cfg.handover || s.fwu.window || s.cfg.busy ≠ 0

/-- What STAGE offset 0 holds (R564): 0 none or unknown, 1 firmware image, 2 configuration image, 3 transfer token. -/
def stagedKind (s : State) : Nat :=
  let m := leNat (stageBytes s 0 4)
  if !s.flash.units.contains 0 then 0 else if m = 0x5746575A then 1 else if m = 0x4643575A then 2 else if m = 4 then 3 else 0

/-- An access that the recovery ROM serves too (R549). -/
def fwuRow (s : State) (sec : Bool) (f : State → State) : State :=
  if s.fwu.recovery && s.pwr.phase = .on && s.hif.up && s.ras.io0 then f s else hostRow s sec f

/-- FWU_BEGIN (R542, R545) -/
def fwuBegin (s : State) : State :=
  if opRuns s then fwuStatus s 0x0807
  else { s with flash := { s.flash with stage := [], units := [], staged := 0 }, fwu := { s.fwu with op := 1 } }

/-- FWU_WRITE (R543, R545) -/
def fwuWrite (s : State) : State :=
  let src := bits s.fwu.src.toNat 0 44
  let off := bits s.fwu.len.toNat 0 12
  let n := bits s.fwu.len.toNat 16 8 + 1
  if opRuns s then fwuStatus s 0x0807
  else if !inGeneral s.cfg.conf src (n * 4096) || src % 4096 ≠ 0 || 4096 < off + n || s.flash.units.any (fun u => off ≤ u && u < off + n) then
    fwuStatus s 0x080B
  else
    let (s, bad) := fetch s src (n * 4096)
    if bad.isSome then fwuStatus s 0x080B
    else
      let d := rd s.mem src (n * 4096)
      let f := s.flash
      let st := (d.zipIdx).foldl (fun t x => tput t (off * 4096 + x.2) x.1 0) f.stage
      let s := { s with flash := { f with stage := st, units := f.units ++ (List.range n).map (off + ·) }, fwu := { s.fwu with op := 2 } }
      { s with flash := { s.flash with staged := stagedKind s } }

/-- The slot that an install writes (R547, R549). -/
def installSlot (s : State) : Bool := !s.fwu.recovery && !s.flash.fwIn

/-- FWU_INSTALL (R545, R547, R549): the slot is erased; it holds the image, and its state is marked, once its program has ended. -/
def fwuInstall (s : State) : State :=
  if opRuns s then fwuStatus s 0x0807
  else match stagedImage s 0 with
    | none => fwuStatus s 0x080B
    | some img =>
      let v := fwStatus s img
      if v ≠ 0 then fwuStatus s v
      else
        let s := { s with fwu := { s.fwu with op := 3 } }
        setFwSlot s (installSlot s) {}

/-- FWU_BEGIN (R542) -/
def execFwuBegin (sec : Bool) (s : State) : Res := .next (fwuRow s sec fwuBegin)
/-- FWU_WRITE (R543) -/
def execFwuWrite (sec : Bool) (s : State) : Res := .next (fwuRow s sec fwuWrite)
/-- FWU_INSTALL (R547) -/
def execFwuInstall (sec : Bool) (s : State) : Res := .next (fwuRow s sec fwuInstall)

/-- FLASH_OPERATION_DONE (R519, R530 to R532, R547, R549): busy clears; the owner record and counter 3 are written, and the slot written is marked
trial. A program that did not verify leaves its slot invalid; an install in recovery confirms FW-A and starts the device again. -/
def execFlashOperationDone (ok : Bool) (s : State) : Res :=
  .next (if s.pwr.phase ≠ .on then s
    else if s.fwu.op ≠ 0 then
      let op := s.fwu.op
      let s := fwuStatus { s with fwu := { s.fwu with op := 0 } } (if ok then 0 else 0x080B)
      let b := installSlot s
      let img := (stagedImage s 0).getD []
      if op ≠ 3 || !ok then s
      else if s.fwu.recovery then
        let s := setFwSlot s b { img := img, st := 2 }
        powerUp { s with flash := { s.flash with fwIn := b } }
      else setFwSlot s b { img := img, st := 1 }
    else if s.cfg.busy ≠ 0 then
      let img := busyImage s
      let s := if ok then busyOwner s else cutBusy s
      let s := cfgStatus { s with cfg := { s.cfg with busy := 0 } } (if ok then 0 else 0x0A0C)
      match img with
      | some img => if ok then setCfgSlot s (!s.flash.cfgIn) { img := img, st := 1 } else s
      | none => s
    else s)

/-! ### CFG_CTL (R508, R513, R519, R530, R531) -/

/-- Where an apply or a transfer may run (R507, R517). -/
def cfgMay (s : State) : Bool := consuming s || s.cfg.waiting

/-- An operation that changes the configuration begins: the slot not in force is erased, and holds the image, marked trial, at the end (R519, R521). -/
def stageConfig (s : State) (op : Nat) : State :=
  let s := setCfgSlot s (!s.flash.cfgIn) {}
  { s with cfg := { s.cfg with busy := op } }

/-- CFG_CTL apply (R519, R530): an unowned device takes its first owner from the image. With no owner record in force and counter 3 not 0, no image has a
signer that counts (R529). -/
def cfgApply (s : State) : State :=
  if !cfgMay s then s
  else if opRuns s then cfgStatus s 0x0A0B
  else match stagedImage s 0 with
    | none => cfgStatus s 0x0A01
    | some img =>
      let v := checkImage s (ownerNow s) none img
      let v := if v = 0 && !ownerSound s then 0x0A03 else v
      if v ≠ 0 then cfgStatus s v else stageConfig s 1

/-- The transfer token's checks (R531). -/
def tokenOk (s : State) (t : List Byte) : Bool :=
  match ownerOf s with
  | none => false
  | some (k, _) => leNat (slice t 0 4) = 4 && leNat (slice t 4 4) = s.flash.ctr3 && slice t 8 48 = devDig s && allZero t 0x68 56 && imgSigned k t

/-- CFG_CTL transfer (R531): a release, coded 3 while its record is written, is in force at the next control-plane start. -/
def ownership (s : State) : State :=
  if !cfgMay s then s
  else if opRuns s then cfgStatus s 0x0A0B
  else
    let t := stageBytes s 0 256
    if !s.flash.units.contains 0 || !tokenOk s t then cfgStatus s 0x0A08
    else
      let dig := slice t 0x38 48
      if dig.all (· = 0) then { s with cfg := { s.cfg with busy := 3 } }
      else match stagedImage s 0x1000 with
        | none => cfgStatus s 0x0A01
        | some img =>
          let v := checkImage s (ownerOf s) (some dig) img
          if v ≠ 0 then cfgStatus s v else stageConfig s 2

/-- CFG_APPLY (R519) -/
def execCfgApply (sec : Bool) (s : State) : Res := .next (hostRow s sec cfgApply)
/-- OWNERSHIP_TRANSFER (R531) -/
def execOwnershipTransfer (sec : Bool) (s : State) : Res := .next (hostRow s sec ownership)

/-- A request to enter MAINTENANCE (R508, R552). -/
def enterMaint (s : State) : State :=
  if s.cfg.st ≠ .service then s
  else if s.cfg.handover then { s with cfg := { s.cfg with maintReq := 1 } }
  else if s.cfg.conf.maintOk then setState { s with cfg := { s.cfg with maintReq := 0 } } .maintenance
  else cfgStatus { s with cfg := { s.cfg with maintReq := 0 } } 0x0A06

/-- A request to leave MAINTENANCE (R508, R552). -/
def leaveMaint (s : State) : State :=
  if s.cfg.st ≠ .maintenance then s else tryLeave { s with cfg := { s.cfg with maintReq := 2 } }

/-- ENTER_MAINTENANCE (R508) -/
def execEnterMaintenance (sec : Bool) (s : State) : Res := .next (hostRow s sec enterMaint)
/-- LEAVE_MAINTENANCE (R508) -/
def execLeaveMaintenance (sec : Bool) (s : State) : Res := .next (hostRow s sec leaveMaint)

/-- Requests that waited for HANDOVER's end (R552). -/
def settleMaint (s : State) : State := if s.cfg.maintReq = 1 then enterMaint s else tryLeave s

/-! ### Handover, confirmation and fallback (R545, R550 to R556) -/

/-- The image that the standby plane loads. -/
def nextFw (s : State) : FSlot := fwSlot s (if s.fwu.fwSel then !s.flash.fwIn else s.flash.fwIn)
def nextCfg (s : State) : FSlot := cfgSlot s (if s.fwu.cfgSel then !s.flash.cfgIn else s.flash.cfgIn)

/-- A release of numerics levels covers another (R17, R550). -/
def nlCovers (new old : List Byte) : Bool := (new.zip old).all fun x => x.1 &&& x.2 = x.2

/-- The refusals of R550, in order. -/
def handoverStatus (s : State) (fwSel cfgSel : Bool) : Status :=
  let f := fwSlot s (!s.flash.fwIn)
  if !standbyOk s then 0x0806
  else if opRuns s then 0x0807
  else if !(fwSel || cfgSel) || (fwSel && f.st ≠ 1) || (cfgSel && (cfgSlot s (!s.flash.cfgIn)).st ≠ 1) then 0x0808
  else if fwSel && !nlCovers (fwNl f.img) (fwNl (activePlane s).fw) then 0x0808
  else if fwSel && (s.fwu.rsf.toNat < fwRsfMin f.img || fwRsf f.img < s.fwu.rsf.toNat) then 0x0808
  else 0

/-- FWU_CTL handover (R550); HANDOVER lies within SERVICE and MAINTENANCE (R507), so that one which nothing refuses is ignored elsewhere (log
entry 126). -/
def startHandover (s : State) (fwSel cfgSel : Bool) (win : Nat) : State :=
  let v := handoverStatus s fwSel cfgSel
  if v ≠ 0 then fwuStatus s v
  else if !consuming s then s
  else { s with cfg := { s.cfg with handover := true },
                fwu := { s.fwu with fwSel := fwSel, cfgSel := cfgSel, winReq := if win = 0 then 600 else win } }

/-- HANDOVER (R550) -/
def execHandover (sec : Bool) (fwSel cfgSel : Bool) (win : BitVec 16) (s : State) : Res :=
  .next (hostRow s sec fun s => startHandover s fwSel cfgSel win.toNat)

/-- HANDOVER ends: a GET_MEASUREMENTS held through it is answered (R559), and waiting requests act (R552). -/
def endHandover (s : State) : State :=
  let s := hifEvent { s with cfg := { s.cfg with handover := false } } 1
  let held := s.sec.heldMeas
  let s := { s with sec := { s.sec with heldMeas := [] } }
  settleMaint (held.foldl (fun s x => answerMeas s x.1 x.2.1 x.2.2) s)

/-- A handover aborts (R552): the standby plane restarts with the images in force. -/
def abortHandover (s : State) : State :=
  let b := !s.ras.actB
  let p := planeOf s b
  let s := if p.st = 0 then setPlane s b { p with st := 3 } else s
  endHandover (fwuStatus s 0x0809)

/-- HANDOVER_ABORTED (R552) -/
def execHandoverAborted (s : State) : Res := .next (if s.cfg.handover then abortHandover s else s)

/-- What a new active plane does (R221, R224, R400, R551): the journals resume. -/
def takeOver (s : State) : State := rewindLog (rewriteAwb (resumeJournals s))

/-- A configuration image is in force on the active plane. -/
def forceConfig (s : State) (img : List Byte) : State :=
  let s := { s with cfg := { s.cfg with confImg := img, cver := imgCver img, cause := 2 } }
  applyRecords s false (confOf ((recsOf img).getD []))

/-- The standby plane becomes active with the images of the handover (R551, R552): the health-confirmation window begins. -/
def takeHandover (s : State) : State :=
  let f := (nextFw s).img
  let c := (nextCfg s).img
  let b := !s.ras.actB
  let s := { s with fwu := { s.fwu with oldCfg := s.cfg.confImg, window := true, remain := s.fwu.winReq, last := 0 } }
  let s := switchPlane (setPlane s b { planeOf s b with st := 0, fw := f, conf := c })
  endHandover (takeOver (readOwner (forceConfig s c)))

/-- The standby plane completes its rebuild (R551); a check that fails, or a plane that is not in service, aborts the handover (R552). -/
def completeHandover (s : State) : State :=
  if !standbyOk s || fwStatus s (nextFw s).img ≠ 0 || imageStatus s (nextCfg s).img ≠ 0 then abortHandover s else takeHandover s

/-- STANDBY_REBUILD_DONE (R551) -/
def execStandbyRebuildDone (s : State) : Res := .next (if s.cfg.handover && consuming s then completeHandover s else s)

/-- The trial slots of the last handover are marked failed (R520, R554). -/
def failTrials (s : State) : State :=
  let f := !s.flash.fwIn
  let c := !s.flash.cfgIn
  let s := if s.fwu.fwSel && (fwSlot s f).st = 1 then setFwSlot s f { fwSlot s f with st := 3 } else s
  if s.fwu.cfgSel && (cfgSlot s c).st = 1 then setCfgSlot s c { cfgSlot s c with st := 3 } else s

/-- A plane is retired once it has stopped twice within 24 h of operation (R425). -/
def wornPlane (s : State) (b : Bool) : Bool := (planeOf s b).st = 2 || 2 ≤ (recent s (planeOf s b).stops).length || !(if b then s.ras.io1 else s.ras.io0)

/-- Both planes have stopped (R513): a warm reset restarts them, with the one that was active, or the other where it is retired. With no plane left the
device moves to HOLD (log entry 43). -/
def bothStopped (s : State) : State :=
  let a := s.ras.actB
  let go (b : Bool) (s : State) : State :=
    let p := planeOf s b
    let o := planeOf s (!b)
    let s := setPlane (setPlane s b { p with st := 0, fw := if p.fw = [] then o.fw else p.fw }) (!b) { o with st := if wornPlane s (!b) then o.st else 3 }
    warmReset { s with ras := { s.ras with actB := b } }
  if !wornPlane s a then go a s else if !wornPlane s (!a) then go (!a) s else enterHold s

/-- A fallback (R554, R555): a handover back to the former plane, or, where that plane has left service, a warm reset with the former
images, which waits as R497 has it. The plane that was active restarts, unless it stopped in lockstep. -/
def fallback (s : State) : State :=
  let s := fwuStatus (failTrials s) 0x080A
  let s := { s with fwu := { s.fwu with window := false, remain := 0 } }
  let b := !s.ras.actB
  let a := activePlane s
  if (planeOf s b).st ≠ 0 then (if a.st = 0 then { s with cfg := { s.cfg with warmWait := true } } else bothStopped s)
  else
    let s := setPlane s s.ras.actB { a with st := if a.st = 0 then 3 else a.st }
    let s := readOwner (forceConfig (switchPlane s) s.fwu.oldCfg)
    endHandover (takeOver s)

/-- Confirmation (R520, R556). -/
def confirm (s : State) : State :=
  let f := !s.flash.fwIn
  let c := !s.flash.cfgIn
  let fs := fwSlot s f
  let cs := cfgSlot s c
  let s := if s.fwu.fwSel && fs.st = 1 then
      let s := setFwSlot s f { fs with st := 2 }
      { s with flash := { s.flash with fwIn := f, ctr0 := max s.flash.ctr0 (fwFloor fs.img) }, fwu := { s.fwu with rsf := BitVec.ofNat 16 (fwRsf fs.img) } }
    else s
  let s := if s.fwu.cfgSel && cs.st = 1 then
      let s := setCfgSlot s c { cs with st := 2 }
      { s with flash := { s.flash with cfgIn := c, ctr1 := max s.flash.ctr1 (imgCfloor cs.img) } }
    else s
  let b := !s.ras.actB
  let p := planeOf s b
  let s := if p.st = 0 then setPlane s b { p with st := 3 } else s
  { s with fwu := { s.fwu with window := false, remain := 0, last := 0 } }

/-- FWU_CTL confirm and fallback (R545, R554, R556): taken during the window; refused while another operation runs. -/
def askConfirm (s : State) : State := if s.fwu.window then confirm s else if opRuns s then fwuStatus s 0x0807 else s
def askFallback (s : State) : State := if s.fwu.window then fallback s else if opRuns s then fwuStatus s 0x0807 else s

/-- FWU_CONFIRM (R556) -/
def execFwuConfirm (sec : Bool) (s : State) : Res := .next (hostRow s sec askConfirm)
/-- FWU_FALLBACK (R554) -/
def execFwuFallback (sec : Bool) (s : State) : Res := .next (hostRow s sec askFallback)

/-- The window runs on a device that can act. -/
def windowOn (s : State) : Bool := s.fwu.window && serviceOn s

/-- HEALTH_WINDOW_EXPIRY (R556) -/
def execHealthWindowExpiry (s : State) : Res := .next (if windowOn s then confirm s else s)
/-- HEALTH_SIGNAL_TIMEOUT (R554) -/
def execHealthSignalTimeout (s : State) : Res := .next (if windowOn s then fallback s else s)
/-- DECLARED_UNHEALTHY (R554) -/
def execDeclaredUnhealthy (s : State) : Res := .next (if windowOn s then fallback s else s)

/-- A plane returns as the standby (R425, R552, R556): with the images in force, and within the window with the former ones (R553). -/
def standbyReturns (s : State) (b : Bool) : State :=
  let p := planeOf s b
  if s.fwu.window then setPlane s b { p with st := 0, fw := (fwSlot s s.flash.fwIn).img, conf := s.fwu.oldCfg }
  else setPlane s b { p with st := 0, fw := (activePlane s).fw, conf := s.cfg.confImg }

/-- FORMER_PLANE_RESTART_DONE (R552, R556): a restarted plane is the standby. -/
def execFormerPlaneRestartDone (s : State) : Res :=
  let b := !s.ras.actB
  .next (if !serviceOn s || (planeOf s b).st ≠ 3 || !(if b then s.ras.io1 else s.ras.io0) then s else standbyReturns s b)

/-! ### Requests for a warm reset (R497, R513, R554, R567, R590) -/

/-- A warm reset is requested: within the window a fallback comes first (R554), itself a warm reset where the former plane has left service (R555);
it then waits for WARM_RESET. A device that waits for an image starts CONFIGURE again. -/
def requestWarm (s : State) : State :=
  if !resettable s then s
  else
    let s := if s.fwu.window then fallback s else s
    { s with cfg := { s.cfg with warmWait := true } }

/-- WARM_RESET (R513): one that a handover held up falls in the window, where a fallback comes first (R554). -/
def execWarmReset (s : State) : Res :=
  .next (if warmReady s then warmReset (if s.fwu.window then fallback s else s) else s)

/-- CFG_WARM_RESET (R513) -/
def execCfgWarmReset (sec : Bool) (s : State) : Res := .next (hostRow s sec requestWarm)
/-- FUNCTION_LEVEL_RESET (R567) -/
def execFunctionLevelReset (s : State) : Res := .next (if s.hif.up && s.pwr.phase = .on then requestWarm s else s)

/-! ### Lockstep stops (R47, R48, R425, R552, R554) -/

/-- A plane stops: its self-test runs (R423). -/
def stopPlane (s : State) (b : Bool) : State :=
  let p := planeOf s b
  raise (setPlane s b { p with st := 1, stops := recent s p.stops ++ [s.ras.sec] }) 0x20 6 0 7 (if b then 5 else 4)

/-- The active plane has left service (R47, R50, R552, R554): the standby plane becomes active and resumes. In a handover it is active with the new images
where it had completed its rebuild, a free value; else the handover aborts and a warm reset follows (R552). With no standby plane a warm reset restarts
both (R513); in HOLD, which only a cold start leaves (R509), nothing restarts. -/
def activeGone (s : State) : State :=
  let other := planeOf s (!s.ras.actB)
  if inHold s then (if other.st = 0 then switchPlane s else s)
  else if s.cfg.handover then
    let v := (Config.freeValue s.free).toNat
    let s := freshFree s
    if v % 2 = 1 && other.st = 0 && fwStatus s (nextFw s).img = 0 && imageStatus s (nextCfg s).img = 0 then takeHandover s
    else bothStopped (abortHandover s)
  else if s.fwu.window then fallback s
  else if other.st = 0 then (if consuming s then resumeJournals (switchPlane s) else switchPlane s)
  else bothStopped s

/-- ACTIVE_LOCKSTEP_MISMATCH (R47, R552, R554) -/
def execActiveLockstepMismatch (s : State) : Res := .next (if !firmwareOn s then s else activeGone (stopPlane s s.ras.actB))

/-- STANDBY_LOCKSTEP_MISMATCH (R48, R552) -/
def execStandbyLockstepMismatch (s : State) : Res :=
  let b := !s.ras.actB
  .next (if !firmwareOn s || (planeOf s b).st ≠ 0 then s
    else
      let s := stopPlane s b
      if s.cfg.handover then abortHandover s else s)

/-- PLANE_SELFTEST_DONE (R425): a plane that stopped twice within 24 h, or fails, is retired. -/
def execPlaneSelftestDone (pass : Bool) (s : State) : Res :=
  let b := !s.ras.actB
  let p := planeOf s b
  .next (if !firmwareOn s || p.st ≠ 1 then s
    else if pass && (recent s p.stops).length < 2 then
      standbyReturns (raise s 0x20 6 6 0 (if b then 5 else 4)) b
    else
      let s := raiseKept s 0x20 6 (if pass then 2 else 5) 0 (if b then 5 else 4)
      let s := setPlane s b { p with st := 2 }
      { s with flash := { s.flash with planeRet := s.flash.planeRet ||| (if b then 2 else 1) } })

/-! ### Lost parts (R44, R50, R51, R278) -/

/-- Stack k is lost with its update unit (R50). -/
def loseStack (s : State) (k : Nat) : State :=
  let h := s.hbm
  { s with hbm := { h with stackTbl := tmod h.stackTbl k {} fun x => { x with lost := true },
                           units := tmod h.units k {} fun x => { x with up := false } } }

/-- Port p loses its engine (R50). -/
def losePort (s : State) (p : Nat) : State := portDown s p 0 6

/-- Whether a part is in service. -/
def partUp (s : State) : Part → Bool
  | .diePair n => bit s.ras.pairs.toNat n.val
  | .stack k => !(stackOf s k.val).lost
  | .io0 => s.ras.io0
  | .io1 => s.ras.io1
  | .engine p => bit s.ras.engines.toNat p.val

/-- The number by which an event names a part (log entry 41). -/
def partLoc : Part → Nat
  | .diePair n => n.val
  | .io0 => 4
  | .io1 => 5
  | .stack k => 8 + k.val
  | .engine p => 16 + p.val

/-- A control plane is lost with its I/O die; the other one goes on (R47, R50). A handover that needs it aborts (R552). -/
def losePlane (s : State) (b : Bool) : State :=
  let act := s.ras.actB
  let s := setPlane s b { planeOf s b with st := 2 }
  if act = b then activeGone s else if s.cfg.handover then abortHandover s else s

/-- The effects of a loss (R50). -/
def losePart (s : State) : Part → State
  | .diePair n =>
    let r := s.ras
    let links := (List.range 4).foldl (fun (f : BitVec 6) b => if b = n.val then f else f &&& ~~~(BitVec.ofNat 6 (1 <<< fabIx n.val b))) r.fab
    let s := { s with ras := { r with pairs := r.pairs &&& ~~~(BitVec.ofNat 4 (1 <<< n.val)), fab := links },
                      ser := { s.ser with up := s.ser.up &&& ~~~(BitVec.ofNat 4 (1 <<< n.val)), rebuild := true } }
    ((List.range 4).flatMap fun i => tilesOf (4 * n.val + i)).foldl clearTile (loseStack (loseStack s (2 * n.val)) (2 * n.val + 1))
  | .stack k => loseStack s k.val
  | .io0 =>
    let s := { s with ras := { s.ras with io0 := false }, hif := { s.hif with up := false } }
    losePlane ((List.range 4).foldl losePort s) false
  | .io1 =>
    let s := { s with ras := { s.ras with io1 := false }, sec := { s.sec with sess := [], half := [] } }
    losePlane (([4, 5, 6, 7]).foldl losePort s) true
  | .engine p => losePort { s with ras := { s.ras with engines := s.ras.engines &&& ~~~(BitVec.ofNat 8 (1 <<< p.val)) } } p.val

/-- Running commands that name a range lost with a part stop (R297); the exchanges of a collective end. -/
def stopLost (s : State) : State :=
  s.cmd.streams.foldl (fun s x => x.2.journal.foldl (fun s e =>
    if e.refused || e.st ≠ .running || (e.ran && e.copies = []) || e.stop.isSome then s
    else match lostNamed s e.rx with
      | none => s
      | some a =>
        let s := match collOf s x.1 e.seq with | some c => leaveColl s c false | none => s
        let s := { s with cmd := { s.cmd with wsWait := s.cmd.wsWait.filter (· ≠ (x.1, e.seq)) } }
        withdraw (modCmd s x.1 e.seq fun e => { e with stop := some (.lost a), ran := false }) x.1 e.seq) s) s

/-- DIE_LOSS (R50, R51, R297): the second L6 loss moves the device to HOLD. -/
def execDieLoss (p : Part) (s : State) : Res :=
  .next (if !firmwareOn s || !partUp s p then s
    else
      let s := { s with ras := { s.ras with losses := s.ras.losses + 1 } }
      let s := stopLost (losePart (raiseKept s 0 6 2 0 (partLoc p)) p)
      if 2 ≤ s.ras.losses then enterHold s else s)

end Sys2Proof.Machine
end

