-- ==== Sys2Proof/Machine/Power.lean ====
section
/-! DEFINITION. Power, clocks, pins and laser modules (R430, R485 to R506, R587 to R590, R599 to R602). -/

namespace Sys2Proof.Machine

/-! ### The governor (R490 to R497) -/

/-- The limit of R491 in mW: the least of the cap, the user cap and the thermal cap, a new cap that p_ref still has to reach counted
(R495). -/
def limMw (p : Pwr) : Int :=
  let c := min p.cap p.thcap
  let c := match p.capNext with | some x => min c x | none => c
  let c := if p.ucap = 0 then c else min c p.ucap.toNat
  (c : Int) * 995 - 2000

/-- The staging engine of a store die moves data while a block of its own is still to be staged (log entry 44). -/
def stagingWork (s : State) (d : Nat) : Bool :=
  s.cmd.streams.any fun x => x.2.journal.any fun e => !e.refused && e.st = .running && !e.ran && e.blocks.any (·.1 % 4 = d)

/-- What a consumer draws now; none where it asks for nothing (R490). -/
def wanted (s : State) : Consumer → Bool
  | .serving t | .training t =>
    (match (tileOf s t.toNat).job with | some j => !j.ballast | none => false)
      || s.ras.held.any (·.tile = t) || replayBusy s t.toNat || !(cluOf s (t.toNat / 16)).ivrOk
  | .staging d => stagingWork s d
  | .unit k => (tget s.hbm.units k {}).up && unitWork s k
  | .margin c => (cluOf s c).plan.isSome

/-- Tiles that ask for a grant, of one class (R490, R491). -/
def tileAsks (s : State) (srv : Bool) : List (Consumer × Nat) :=
  allTiles.filterMap fun t =>
    match (tileOf s t).job with
    | some j =>
      if j.ballast || (tileOf s t).granted || !tileUp s t || serving (strmOf s j.st) ≠ srv then none else some (jobUser s t j, jobMw s t j)
    | none => none

/-- The pending grants in the order of R491: Serving, Training, staging, update units, margin; within a class by number (log entry 44). -/
def asks (s : State) : List (Consumer × Nat) :=
  let has (c : Consumer) : Bool := s.pwr.held.any (·.1 = c)
  let fixed (l : List (Consumer × Nat)) : List (Consumer × Nat) := l.filter fun x => wanted s x.1 && !has x.1
  tileAsks s true ++ tileAsks s false ++ fixed ((List.range 4).map fun d => (.staging d, 12000))
    ++ fixed ((List.range 8).map fun k => (.unit k, 14000))
    ++ (s.pwr.pend.filter fun x => (match x.1 with | .margin c => (cluOf s c).plan.isSome | _ => false))

/-- The leading pending grants that fit in the room. -/
def fitting : List (Consumer × Nat) → Int → List (Consumer × Nat)
  | [], _ => []
  | x :: r, room => if (x.2 : Int) ≤ room then x :: fitting r (room - x.2) else []

/-- A grant is given: a tile's job may issue, a cluster's plan acts (R442). -/
def giveGrant (s : State) (x : Consumer × Nat) : State :=
  let p := s.pwr
  let s := { s with pwr := { p with held := p.held ++ [x], pend := p.pend.filter fun y => y.1 ≠ x.1 } }
  match x.1 with
  | .serving t | .training t => modTile s t.toNat fun y => { y with granted := true }
  | .margin c => match (cluOf s c).plan with | some (o, fr) => applyPlan s c o fr | none => s
  | _ => s

/-- Tiles with no job of a command that may hold ballast (R491, R493, R497): those that hold it already come first. -/
def ballastTiles (s : State) : List Nat :=
  let on (t : Nat) : Bool := s.pwr.bal.any (·.1.toNat = t)
  let spare (x : Tile) : Bool := match x.job with | none => true | some j => j.ballast
  let free := allTiles.filter fun t => tileUp s t && spare (tileOf s t) && ((tileOf s t).reserve.isNone || on t) && (tileGrant s t).isNone
  free.filter on ++ free.filter fun t => !on t

/-- Ballast grants while the fill holds the next one. -/
def ballast (s : State) : List Nat → Int → List (TileNo × Nat)
  | [], _ => []
  | t :: r, fill =>
    let g := 10500 * (rasOf s t).frac / 16
    if (g : Int) ≤ fill then (BitVec.ofNat 8 t, g) :: ballast s r (fill - g) else []

/-- The mean of p_ref over the averaging window (R492), the unfinished bin counted. -/
def meanRef (p : Pwr) : Nat :=
  let n := p.bins.length * 100 + p.binN
  if n = 0 then p.pref else ((p.bins.sum) * 100 + p.binSum) / n

/-- A tick's p_ref enters its bin (R492). -/
def addBin (p : Pwr) : Pwr :=
  let b := p.binSum + p.pref
  if p.binN + 1 < 100 then { p with binSum := b, binN := p.binN + 1 }
  else
    let l := p.bins ++ [b / 100]
    { p with bins := l.drop (l.length - p.win * 1000), binSum := 0, binN := 0 }

/-- The sum of grants. -/
def mwSum {α : Type} (l : List (α × Nat)) : Nat := (l.map Prod.snd).sum

/-- The counters that timing decides go on in 10 µs (R270, R304, R338) by free values (log entry 46): of the byte classes tile reads, of which the
device counts combined ones once, and control traffic; waiting clocks; the clocks of units at work and of tiles in jobs. -/
def countTraffic (s : State) : State :=
  let fv (i : Nat) : Nat := (Config.freeValue (s.free + i)).toNat
  let wrap (x : Nat) : Nat := x % 2 ^ 64
  let cls := if s.til.tiles.any fun t => t.2.job.isSome then [0, 5] else [5]
  let bw := (List.range 4).foldl (fun t k => cls.foldl (fun t c => tmod t (8 * k + c) 0 fun x => wrap (x + fv (8 * k + c))) t) s.ser.bw
  let stall := (List.range 4).foldl (fun t k => tmod t k 0 fun x => wrap (x + fv (32 + k) % 12001)) s.ser.stall
  let units := (List.range 8).foldl (fun t k => if unitWork s k then tmod t k {} fun x => { x with fclk := wrap (x.fclk + fv (56 + k) % 16001) } else t) s.hbm.units
  let tiles := s.til.tiles.map fun t => (t.1, if t.2.job.isSome then { t.2 with busy := wrap (t.2.busy + fv (64 + t.1) % 24001) } else t.2)
  { s with free := s.free + 512, ser := { s.ser with bw := bw, stall := stall }, hbm := { s.hbm with units := units },
           til := { s.til with tiles := tiles } }

/-- The numeric sensors are updated at their rates (R583): every 1 ms, 10 ms and 1 s of operation. -/
def senseAll (s : State) : State :=
  let p := s.pwr
  let at_ (n : Nat) : Bool := s.clock % n < 10
  let d := s.pldm
  let d := if at_ 1000 then { d with pin := p.pins.sum / (100 * 1000), vin := p.vin } else d
  let d := if at_ 10000 then { d with tj := p.tj, thbm := p.thbm } else d
  { s with pldm := if at_ 1000000 then { d with ein := p.ein / 100000000 } else d }

/-- The slope in force (R486): the configured values are first reached at that of the start-up defaults. -/
def slopeNow (p : Pwr) : Nat := if p.easing then 20 else p.slope

/-- The grant of a tile that has left service and asks for nothing any more. -/
def lostGrant (s : State) (c : Consumer) : Bool := (match userTile c with | some t => !tileUp s t | none => false) && !wanted s c

/-- Grants of lost tiles are released at the slope: as many mW as a tick allows (R497). -/
def easeGrants (lost : Consumer → Bool) : List (Consumer × Nat) → Nat → List (Consumer × Nat)
  | [], _ => []
  | x :: r, b =>
    if !lost x.1 then x :: easeGrants lost r b
    else if x.2 ≤ b then easeGrants lost r (b - x.2)
    else (x.1, x.2 - b) :: easeGrants lost r 0

/-- One tick of R491: u in mW, e in µJ over 1 ms, which is mW. While a warm reset waits, nothing is granted and p_ref comes down to 700 W above the
idle draw (R497). -/
def governor (s : State) (u : Nat) (e : Int) (pin : Nat) : State :=
  let p := s.pwr
  let up : Int := slopeNow p * 10
  let s := { s with pwr := { p with held := easeGrants (lostGrant s) (p.held.filter fun x => wanted s x.1 || lostGrant s x.1) up.toNat } }
  let p := s.pwr
  let lim := limMw p
  let g : Int := mwSum p.held
  let want := if warmDefers s then [] else asks s
  let tgt0 : Int := u + g + mwSum want - e
  let tgt0 := if warmDefers s then min tgt0 (u + 700000) else tgt0
  let floor := p.floorQ * meanRef p / 64
  let floorSet := p.floorEn && !warmDefers s && decide (tgt0 < floor)
  let tgt : Int := if floorSet then floor else tgt0
  let hi := min (min tgt (p.pref + up)) lim
  let pref := (max ((p.pref : Int) - up) hi).toNat
  let room := min (pref : Int) (lim - 80000) - u - g
  let s := { s with pwr := { p with pref := pref, easing := p.easing && decide ((pref : Int) ≠ min tgt lim) } }
  let s := (fitting want room).foldl giveGrant s
  let fill : Int := (pref : Int) - u - mwSum s.pwr.held
  let bal := ballast s (ballastTiles s) fill
  let clamp := min 700000 (fill - mwSum bal).toNat
  let drop := s.pwr.bal.filter fun x => !bal.any (·.1 = x.1)
  let s := drop.foldl (fun s x => match (tileOf s x.1.toNat).job with | some j => if j.ballast then endTile s x.1.toNat else s | none => s) s
  let p := s.pwr
  let spent := mwSum bal + clamp
  let cap := match p.capNext with | some c => if pref ≤ c * 1000 then c else p.cap | none => p.cap
  let s := { s with pwr := addBin { p with
    bal := bal, clamp := clamp, uMw := u, limMw := lim.toNat, floorMw := if p.floorEn then floor else 0,
    capBound := decide (lim < min tgt ((s.pwr.pref : Int) + up)) && decide ((pref : Int) = lim), floorBound := floorSet,
    tollFloor := if floorSet then p.tollFloor + spent else p.tollFloor, tollRamp := if floorSet then p.tollRamp else p.tollRamp + spent,
    ein := p.ein + pin, pins := (p.pins ++ [pin]).drop (p.pins.length + 1 - 100),
    cap := cap, capNext := if cap = p.cap then p.capNext else none, thcap := min p.thcap cap } }
  senseAll (countTraffic { s with clock := s.clock + 10 })

/-- GOVERNOR_TICK (R491) -/
def execGovernorTick (u : Nat) (e : Int) (pin : Nat) (s : State) : Res :=
  .next (if s.pwr.phase = .on then governor s u e pin else s)

/-- PWR_CAP_USER (R495, R509): taken in HOLD too. -/
def setUcap (s : State) (v : W64) : State := { s with pwr := { s.pwr with ucap := v.setWidth 12 } }

/-- PWR_CAP_USER (R495) -/
def execPwrCapUser (sec : Bool) (v : W64) (s : State) : Res :=
  .next (if !hostOn s || secGone s sec then s else if ideShut s sec then reply s .unsupported else setUcap s v)

/-! ### Thermal cap and shutdowns (R487, R488, R498 to R501) -/

/-- Update PWR_LAST alone (R498). -/
def noteLast (s : State) (st : Status) (v : Nat) : State := { s with flash := { s.flash with pwrLast := (st, v, poh s) } }

/-- THERMAL_TICK (R498): the hottest junction is that of a die or of a stack; the fault history takes the throttle's beginning. -/
def execThermalTick (tj thbm : Nat) (s : State) : Res :=
  .next (if s.pwr.phase ≠ .on then s
    else
      let p := s.pwr
      let t := max tj thbm
      let th := if 93 ≤ t then p.thcap - 20 * (t - 92) else if t ≤ 90 then min p.cap (p.thcap + 10) else p.thcap
      let s := { s with pwr := { p with thcap := th, tj := tj, thbm := thbm } }
      if th < p.cap then (if p.thcap < p.cap then noteLast s 0x0904 t else powerEvent s 0x0904 t) else s)

/-- The input voltage as measured. -/
def setVin (s : State) (v : Nat) : State := { s with pwr := { s.pwr with vin := v } }

/-- The input lies where the device may start (R487, R488), and nothing holds it off (R587, R589). -/
def mayStart (s : State) : Bool :=
  s.pwr.phase = .off && s.pwr.seated && !s.pwr.coldLow && 4600 < s.pwr.vin && s.pwr.vin ≤ 6000

/-- SOFT_START (R489): SEAT# is asserted and the input rises above 46 V; BOOT_ROM_START ends the soft start that begins. A device turned off by overvoltage or by its junctions waits for
its own condition (R488, R500). -/
def execSoftStart (vin : Nat) (s : State) : Res :=
  .next (if s.pwr.phase ≠ .off then s
    else
      let s := setVin s vin
      let s := { s with pwr := { s.pwr with seated := true } }
      if mayStart s && s.pwr.offCause ≠ 2 && s.pwr.offCause ≠ 3 then powerUp s else s)

/-- INPUT_COLLAPSE (R487), during soft start too (R489); at a device held off by R500, an input below 40 V lets it start again. -/
def execInputCollapse (vin : Nat) (s : State) : Res :=
  .next (if 4600 ≤ vin then s
    else if s.pwr.phase ≠ .off then turnOff (powerEvent (setVin s vin) 0x0901 vin) 1
    else
      let s := setVin s vin
      if s.pwr.offCause = 3 && vin < 4000 then { s with pwr := { s.pwr with offCause := 1 } } else s)

/-- INPUT_OVERVOLTAGE (R488) -/
def execInputOvervoltage (vin : Nat) (s : State) : Res :=
  .next (if vin ≤ 5800 then s
    else if s.pwr.phase ≠ .off then
      let s := powerEvent (setVin s vin) 0x0902 vin
      if 6000 < vin then turnOff s 2 else s
    else setVin s vin)

/-- INPUT_RESTART (R488): the input has stayed within 46 V to 58 V for 1 s after an overvoltage turned the device off. -/
def execInputRestart (vin : Nat) (s : State) : Res :=
  .next (if s.pwr.phase ≠ .off || s.pwr.offCause ≠ 2 || vin < 4600 || 5800 < vin then s
    else
      let s := setVin s vin
      if s.pwr.seated && !s.pwr.coldLow then powerUp s else { s with pwr := { s.pwr with offCause := 1 } })

/-- JUNCTION_SHUTDOWN (R500) -/
def execJunctionShutdown (tj : Nat) (s : State) : Res :=
  .next (if s.pwr.phase ≠ .on || tj < 105 then s
    else turnOff (powerEvent { s with pwr := { s.pwr with tj := tj } } 0x0903 tj) 3)

/-- OPTICAL_OVERPOWER (R501): the value recorded is the mask of the port. -/
def execOpticalOverpower (p : Fin 8) (s : State) : Res :=
  .next (if s.pwr.phase ≠ .on || !portLit s p.val || (portOf s p.val).dis then s
    else
      let s := { s with pwr := { s.pwr with blank := s.pwr.blank ||| BitVec.ofNat 8 (1 <<< p.val) } }
      powerEvent (portDown s p.val 0 7) 0x0905 (1 <<< p.val))

/-! ### References and pins (R503, R504, R588 to R590) -/

/-- REFERENCE_LOST (R503) -/
def execReferenceLost (s : State) : Res :=
  .next (if s.pwr.phase ≠ .on || !s.clk.refOk then s
    else powerEvent { s with clk := { s.clk with refOk := false, hold := true } } 0x0906 0)

/-- REFERENCE_RETURN (R503) -/
def execReferenceReturn (s : State) : Res :=
  .next (if s.pwr.phase ≠ .on || !s.clk.hold then s else { s with clk := { s.clk with refOk := true, hold := false } })

/-- HOST_REFERENCE_LOST (R504) -/
def execHostReferenceLost (s : State) : Res :=
  .next (if s.pwr.phase ≠ .on || !s.clk.href then s else dropLink { s with clk := { s.clk with href := false } })

/-- HOST_REFERENCE_RETURN (R504): the host link retrains. -/
def execHostReferenceReturn (s : State) : Res :=
  .next (if s.pwr.phase ≠ .on || s.clk.href then s
    else
      let h := s.hif
      trainLink { s with clk := { s.clk with href := true }, hif := { h with retrains := sat 0xFFFF (h.retrains + 1) } })

/-- SEAT_DEASSERT (R588) -/
def execSeatDeassert (s : State) : Res :=
  let s := { s with pwr := { s.pwr with seated := false } }
  .next (if s.pwr.phase ≠ .off then turnOff (powerEvent s 0x0901 s.pwr.vin) 1 else s)

/-- COLD_RST (R589): no power event; it acts in every state. -/
def execColdRst (s : State) : Res :=
  let s := { s with pwr := { s.pwr with coldLow := true } }
  .next (if s.pwr.phase ≠ .off then turnOff s 4 else s)

/-- COLD_RST_RELEASE (R589) -/
def execColdRstRelease (s : State) : Res :=
  .next (if !s.pwr.coldLow then s
    else
      let s := { s with pwr := { s.pwr with coldLow := false } }
      if mayStart s && s.pwr.offCause ≠ 2 && s.pwr.offCause ≠ 3 then powerUp s else s)

/-- PERST (R590): the release lets the host link train; an assertion after that is a warm reset. -/
def execPerst (asserted : Bool) (s : State) : Res :=
  .next (if s.hif.perst = asserted then s
    else if asserted then
      let was := s.hif.up
      let s := dropLink { s with hif := { s.hif with perst := true } }
      if was && s.pwr.phase = .on then requestWarm s else s
    else trainLink { s with hif := { s.hif with perst := false } })

/-! ### Laser modules (R28, R430, R599 to R602) -/

/-- A bay. -/
def bayOf (s : State) (lm1 : Bool) : Bay := if lm1 then s.lm1 else s.lm0

/-- Change a bay. -/
def setBay (s : State) (lm1 : Bool) (b : Bay) : State := if lm1 then { s with lm1 := b } else { s with lm0 := b }

/-- What a bay's indicator shows (R599): 0 off, 1 green, 2 amber, 3 red. -/
def indicator (s : State) (lm1 : Bool) : Nat :=
  let b := bayOf s lm1
  if b.failed then 3 else if !b.ok then 0 else if (bayOf s (!lm1)).ok then 1 else 2

/-- The other module takes all the light (R28, R430, R600): the event of a laser failover. -/
def failover (s : State) (lm1 : Bool) (b : Bay) : State :=
  let o := bayOf s (!lm1)
  raise (setBay (setBay s lm1 b) (!lm1) { o with pct := 100 }) 0x19 0 0 8 (b2n lm1)

/-- Every port goes down for want of light (R430). -/
def noLight (s : State) : State :=
  (List.range 8).foldl (fun s p => let q := portOf s p; if q.st = 4 || q.st = 0 then s else portDown s p 0 8) s

/-- LASER_MODULE_FAIL (R430, R601): an output below 70 % of its set point, or an extraction. -/
def execLaserModuleFail (lm1 : Bool) (s : State) : Res :=
  let b := bayOf s lm1
  let o := bayOf s (!lm1)
  let dark : Bay := { b with ok := false, pct := 0, testing := false, ramp := false, failed := true }
  .next (if s.pwr.phase ≠ .on || !(b.ok || b.ramp) then s
    else if o.ok then failover s lm1 dark
    else if b.ramp then setBay s lm1 dark
    else noLight (raise (setBay s lm1 dark) 0x19 0 0 0 (b2n lm1)))

/-- LASER_LATCH_OPEN (R600, R601): with the other module in service its light moves there; else the module stays lit. -/
def execLaserLatchOpen (lm1 : Bool) (s : State) : Res :=
  let b := bayOf s lm1
  let o := bayOf s (!lm1)
  .next (if s.pwr.phase ≠ .on then s
    else if b.ok && !o.ok then s
    else
      let dark : Bay := { b with ok := false, pct := 0, testing := false, ramp := false }
      if b.ok then failover s lm1 dark else setBay s lm1 dark)

/-- LASER_LATCH_CLOSE (R601, R602): an unknown part is refused and shows red; a known one is self-tested. -/
def execLaserLatchClose (lm1 seated known : Bool) (s : State) : Res :=
  .next (if s.pwr.phase ≠ .on || (bayOf s lm1).ok then s
    else setBay s lm1 { ok := false, pct := 0, seated := seated, testing := seated && known, failed := seated && !known, ramp := false })

/-- LASER_SELFTEST_DONE (R602) -/
def execLaserSelftestDone (lm1 pass : Bool) (s : State) : Res :=
  let b := bayOf s lm1
  .next (if s.pwr.phase ≠ .on || !b.testing then s
    else setBay s lm1 { b with testing := false, ramp := pass, failed := !pass })

/-- LASER_RAMP_DONE (R430, R602): both modules supply half the light; a module alone supplies all of it, and the ports link up again. -/
def execLaserRampDone (lm1 : Bool) (s : State) : Res :=
  let b := bayOf s lm1
  let o := bayOf s (!lm1)
  let lit : Bay := { b with ok := true, ramp := false, failed := false }
  .next (if s.pwr.phase ≠ .on || !b.ramp then s
    else if o.ok then setBay (setBay s lm1 { lit with pct := 50 }) (!lm1) { o with pct := 50 }
    else
      let s := setBay s lm1 { lit with pct := 100 }
      (List.range 8).foldl (fun s p => if (portOf s p).st = 0 then startTraining s p else s) s)

end Sys2Proof.Machine
end

