-- ==== Sys2Proof/Machine/HostIf.lean ====
section
/-! DEFINITION. The host interface (R21, R276, R569 to R575) and the management interface (R571, R582, R584): register writes, BAR4, and what a
configuration request changes. -/

namespace Sys2Proof.Machine

/-! ### Writes by register type (R21, R569) -/

/-- A write to the 8-byte register word at `off`: the bits that the access covers and their values. -/
structure RegWr where
  off : Nat
  mask : Nat
  val : Nat
deriving DecidableEq, Repr

/-- The access of a size at an offset, widened to its register word. -/
def regWr (off size v : Nat) : RegWr :=
  if size = 8 then ⟨off, 2 ^ 64 - 1, v % 2 ^ 64⟩
  else if off % 8 = 0 then ⟨off, 2 ^ 32 - 1, v % 2 ^ 32⟩
  else ⟨off - 4, (2 ^ 32 - 1) <<< 32, (v % 2 ^ 32) <<< 32⟩

/-- RW fields take the covered bits and keep the others (R569). -/
def RegWr.merge (w : RegWr) (old : Nat) : Nat := (old - (old &&& w.mask)) + (w.val &&& w.mask)

/-- A write that covers a whole field (R569). -/
def RegWr.covers (w : RegWr) (lo n : Nat) : Bool := bits w.mask lo n = 2 ^ n - 1

/-- A W1C or W1S bit is written with 1. -/
def RegWr.one (w : RegWr) (i : Nat) : Bool := bit w.mask i && bit w.val i

/-- The value of a WO field; 0 where the write does not cover it. -/
def RegWr.field (w : RegWr) (lo n : Nat) : Nat := if w.covers lo n then bits w.val lo n else 0

/-- The merged value of a register's defined RW bits. -/
def RegWr.rw (w : RegWr) (old : W64) (defined : Nat) : W64 := BitVec.ofNat 64 (w.merge old.toNat &&& defined)

/-- Writes to the HIF block (R575, R577). A vector unmasked sends the message it held. -/
def writeHif (s : State) (w : RegWr) : State :=
  let h := s.hif
  if w.off = 0x18 then
    { s with hif := { h with badNew := h.badNew && !w.one 32, poisonNew := h.poisonNew && !w.one 33 } }
  else if w.off = 0x28 then { s with hif := { h with evtCfg := w.rw h.evtCfg 0xFFF } }
  else if w.off = 0x30 then
    let clr := BitVec.ofNat 4 (w.val &&& w.mask)
    { s with hif := { h with evt := h.evt &&& ~~~clr } }
  else if 0x8000 ≤ w.off && w.off < 0x10000 then
    let i := (w.off - 0x8000) / 8
    let d := msixDflt i
    let defined := if i % 2 = 0 then 0xFFFFFFFFFFFFFFFC else 0x1FFFFFFFF
    flushHost { s with hif := { h with msix := tput h.msix i (w.rw (tget h.msix i d) defined) d } }
  else s

/-- Writes to CMD_BRK_CTL (R231, R232). -/
def writeBrkCtl (s : State) (w : RegWr) : State :=
  let b := s.cmd.brk
  let hit := bit b.ctl.toNat 3 && !w.one 3
  let ctl := setBits (w.rw b.ctl 0x7FFFFFF0007) 3 1 (b2n hit)
  let s := { s with cmd := { s.cmd with brk := { b with ctl := ctl } } }
  if w.one 4 then pauseWatched s false else s

/-- Writes to the CMD block (R188, R230, R232, R234, R240). -/
def writeCmd (s : State) (w : RegWr) : State :=
  let st := s.selH.strm.toNat
  let x := strmOf s st
  let ri := s.selH.cring.toNat
  let o := w.off % 0x100000
  if 0x4000 ≤ o then
    if o < 0x8000 && w.covers 0 32 then writeHead s ((o - 0x4000) / 8) (BitVec.ofNat 32 w.val) else s
  else match o with
  | 0x08 => if x.opened then s else modStrm s st fun x => { x with cfg := w.rw x.cfg 0xFFFF07FFFF07 }
  | 0x10 =>
    match w.field 0 3 with
    | 1 => openStream s st
    | 2 => closeStream s st
    | 3 => pauseStream s st true
    | 4 => pauseStream s st false
    | _ => s
  | 0x18 => modStrm s st fun x => { x with ovr := x.ovr && !w.one 4, openErr := x.openErr && !w.one 5 }
  | 0x108 => writeRingBase s ri (w.rw (ringOf s ri).base (2 ^ 64 - 1))
  | 0x110 => writeRingCfg s ri (setBits (w.rw (ringOf s ri).cfg (2 ^ 64 - 1)) 10 1 (b2n (w.one 10)))
  | 0x210 => if w.covers 0 64 then syncUpdate s s.selH.sync.toNat false (BitVec.ofNat 64 w.val) else s
  | 0x218 => if w.covers 0 64 then syncUpdate s s.selH.sync.toNat true (BitVec.ofNat 64 w.val) else s
  | 0x300 => writeBrkCtl s w
  | 0x308 => let b := s.cmd.brk; { s with cmd := { s.cmd with brk := { b with cnt := w.rw b.cnt (2 ^ 64 - 1) } } }
  | 0x310 => let b := s.cmd.brk; { s with cmd := { s.cmd with brk := { b with tag := w.rw b.tag 0xFFFFFFFF } } }
  | 0x400 => { s with cmd := { s.cmd with fnDis := BitVec.ofNat 8 (w.merge s.cmd.fnDis.toNat) &&& 0xEF } }
  | _ => s

/-- Writes to the TIL block (R182, R259). -/
def writeTil (s : State) (w : RegWr) : State :=
  let t := s.til
  match w.off % 0x100000 with
  | 0x100 =>
    let f := t.sflt
    if w.one 63 then { s with til := { t with sflt := (setBits f.1 63 1 0, f.2) } } else s
  | 0x408 => writeVo s s.selH.vo.toNat (w.rw (voOf s s.selH.vo.toNat) (2 ^ 64 - 1))
  | 0x418 =>
    let i := s.selH.vob.toNat
    { s with til := { t with bind := tput t.bind i (BitVec.ofNat 6 (w.merge (tget t.bind i 0).toNat)) 0 } }
  | _ => s

/-- Writes to the LNK block (R342, R360, R363, R384, R385). -/
def writeLnk (s : State) (w : RegWr) : State :=
  let p := s.selH.port.toNat
  let g := s.selH.grp.toNat
  match w.off % 0x100000 with
  | 0x10 =>
    let s := if w.covers 0 1 then setDis s p (bit w.val 0) else s
    let s := if w.one 2 then resetLanes s p else s
    if w.one 1 then askRetrain s p else s
  | 0x208 => modGroup s g fun x => { x with sEnt := w.rw x.sEnt 0xFFFFFFFF0002 }
  | 0x210 => modGroup s g fun x => { x with sEpoch := w.rw x.sEpoch (2 ^ 64 - 1) }
  | 0x218 => modGroup s g fun x => { x with sList := w.rw x.sList (2 ^ 44 - 1) }
  | 0x220 =>
    match w.field 0 2 with
    | 1 => commitGroup s g
    | 2 => invalidateGroup s g
    | _ => s
  | 0x228 => if w.one 0 then modGroup s g fun x => { x with wrErr := false } else s
  | _ => s

/-- Writes to the EVD block (R412). -/
def writeEvd (s : State) (w : RegWr) : State :=
  let v := s.evd
  let on := bit v.cfg.toNat 6
  match w.off % 0x100000 with
  | 0x08 => if on then s else { s with evd := { v with base := w.rw v.base (2 ^ 64 - 1) } }
  | 0x10 =>
    let new := w.rw v.cfg 0x7FFFF
    { s with evd := { v with cfg := if on then setBits v.cfg 6 1 (bits new.toNat 6 1) else new } }
  | 0x18 => { s with evd := { v with head := BitVec.ofNat 32 (w.merge v.head.toNat) } }
  | _ => s

/-- Writes to the RAS block (R424, R445 to R447, R477 to R483). -/
def writeRas (s : State) (w : RegWr) : State :=
  let r := s.ras
  match w.off % 0x100000 with
  | 0x118 => if w.one 24 then modRas s s.selH.rtile.toNat fun x => { x with wrErr := false } else s
  | 0x120 => if w.covers 0 2 then tileCtl s s.selH.rtile.toNat (bits w.val 0 2) else s
  | 0x230 => { s with ras := { r with irq := w.rw r.irq 0xFFF } }
  | 0x300 => { s with ras := { r with shadow := w.rw r.shadow 0x3F } }
  | 0x408 => if w.one 0 then replanAll s else s
  | 0x520 => if w.one 3 then { s with job := { s.job with wrErr := false } } else s
  | 0x530 => if w.covers 0 2 then jobCtl s (bits w.val 0 2) else s
  | _ => s

/-- Writes to the FWU block (R542 to R556, R564); `rom` says that the boot ROM serves it in recovery (R549). -/
def writeFwu (s : State) (rom : Bool) (w : RegWr) : State :=
  let f := s.fwu
  match w.off % 0x100000 with
  | 0x00 => { s with fwu := { f with src := w.rw f.src (2 ^ 44 - 1) } }
  | 0x08 => { s with fwu := { f with len := w.rw f.len 0xFF0FFF } }
  | 0x10 =>
    match w.field 0 3 with
    | 1 => fwuBegin s
    | 2 => fwuWrite s
    | 3 => fwuInstall s
    | 4 => if rom then s else startHandover s (w.one 3) (w.one 4) (w.field 16 16)
    | 5 => if rom then s else askConfirm s
    | 6 => if rom then s else askFallback s
    | _ => s
  | _ => s

/-- Writes to the CFG block (R508, R513, R519, R531, R533). -/
def writeCfg (s : State) (w : RegWr) : State :=
  match w.off % 0x100000 with
  | 0x50 =>
    match w.field 0 3 with
    | 1 => cfgApply s
    | 2 => ownership s
    | 3 => enterMaint s
    | 4 => leaveMaint s
    | 5 => requestWarm s
    | _ => s
  | 0x58 => if s.cfg.st = .configure && w.covers 0 1 then { s with cfg := { s.cfg with toMaint := bit w.val 0 } } else s
  | _ => s

/-- Writes to selection registers by the host (R33, R571), the wr_err bit of TIL_VO_SEL among them (R259). -/
def writeSel (s : State) (w : RegWr) : Option State :=
  (selWrite s.selH w.off (w.merge (readReg s s.selH w.off))).map fun m =>
    let s := { s with selH := m }
    if w.off = 0x200400 && w.one 8 then { s with til := { s.til with voErr := false } } else s

/-- A BAR0 write acts (R21, R576). An offset that holds no register ignores it. -/
def writeReg (s : State) (w : RegWr) : State :=
  match writeSel s w with
  | some s => s
  | none =>
    match w.off / 0x100000 with
    | 0 => writeHif s w
    | 1 => writeCmd s w
    | 2 => writeTil s w
    | 4 => if w.off = 0x400100 then
        { s with ser := { s.ser with paViol := s.ser.paViol && !w.one 48, ueNew := s.ser.ueNew && !w.one 49 } } else s
    | 5 => if w.off = 0x500010 && w.one 48 then
        { s with hbm := { s.hbm with stackTbl := tmod s.hbm.stackTbl s.selH.stk.toNat {} fun k => { k with ueNew := false } } } else s
    | 6 => writeLnk s w
    | 8 => writeEvd s w
    | 9 => writeRas s w
    | 10 => if w.off = 0xA00008 then setUcap s (w.rw (BitVec.ofNat 64 s.pwr.ucap.toNat) 0xFFF) else s
    | 12 => writeCfg s w
    | 13 => writeFwu s false w
    | 14 => if w.off = 0xE00008 && w.one 0 then lockIde s
      else if w.off = 0xE00000 && w.one 6 then { s with sec := { s.sec with ideFail := false } } else s
    | _ => s

/-- Writes to a doorbell page (R209, R210); those of a peer-owned stream are ignored (R212). -/
def writeBell (s : State) (w : RegWr) : State :=
  let st := w.off / 4096
  let x := strmOf s st
  if bit x.cfg.toNat 2 then s else match w.off % 4096 with
  | 0x00 => if w.covers 0 32 then setPi s st (BitVec.ofNat 32 w.val) else s
  | 0x18 => modStrm s st fun _ => { x with awb := w.rw x.awb 0xFFFFFFFFFFFFFFF8 }
  | _ => s

/-- What a read of a doorbell page returns (R209); no row of the table reads one. -/
def readBell (s : State) (off : Nat) : W64 :=
  let x := strmOf s (off / 4096)
  match off % 4096 with
  | 0x00 => x.pi.setWidth 64
  | 0x08 => x.ci.setWidth 64
  | 0x10 => x.nseq
  | 0x18 => x.awb
  | _ => 0

/-- The host link serves the boot ROM in recovery (R549). -/
def romOn (s : State) : Bool := s.fwu.recovery && s.pwr.phase = .on && s.hif.up && s.ras.io0

/-- A poisoned write is counted (R573). -/
def countPoison (s : State) : State :=
  { s with hif := { s.hif with poison := sat 0xFFFF (s.hif.poison + 1), poisonNew := true } }

/-- REGISTER_WRITE (R21, R562, R569, R572, R573): a poisoned write is discarded and counted; an access of another size or alignment, and a BAR2
access before SERVICE or MAINTENANCE, is ignored and counted; in HOLD only PWR_CAP_USER is taken (R509). -/
def execRegisterWrite (sec : Bool) (bar : Fin 3) (off size : Nat) (v : W64) (poisoned : Bool) (s : State) : Res :=
  let w := regWr off size v.toNat
  let odd := !((size = 4 || size = 8) && off % size = 0)
  .next (if bar.val = 2 || !(hostOn s || romOn s) || secGone s sec then s
    else if ideShut s sec then reply s .unsupported
    else if poisoned then countPoison s
    else if odd then countBad s bar.val off
    else if bar.val = 1 then
      if !s.cfg.entered then countBad s 1 off else if inHold s || 0x10000000 ≤ off then s else writeBell s w
    else if romOn s then (if w.off / 0x100000 = 13 then writeFwu s true w else s)
    else if inHold s && w.off ≠ 0xA00008 then s
    else if 0x4000000 ≤ off then s
    else writeReg s w)

/-! ### BAR4 (R276, R572, R573) -/

/-- The host may reach a range through BAR4 (R572): everywhere once SERVICE or MAINTENANCE has been entered, and in the general region while the
device waits in CONFIGURE or is in recovery. -/
def bar4Open (s : State) (a n : Nat) : Bool :=
  a + n ≤ 0x80000000 && (s.cfg.entered || ((s.cfg.waiting || s.fwu.recovery) && inGeneral s.cfg.conf a n))

/-- What R276 lets the host write at an address: 0 nothing, 1 one copy, 2 both copies of the retained pool. -/
def hostMay (c : Conf) (a : Nat) : Nat :=
  let r := rgnOf c a
  if r < 3 then 1 else if r = 3 && rgnBase c 3 * page + 0x1000000 ≤ a then 2 else 0

/-- Host data at an address of one region (R276): stored, or poisoned. -/
def hostPut (s : State) (poisoned : Bool) (a : Nat) (d : List Byte) : State :=
  let c := s.cfg.conf
  let bad (s : State) (a : Nat) : State := if d = [] || addrLost s a then s else poison s a d.length
  match hostMay c a with
  | 0 => { s with ser := { s.ser with paViol := true } }
  | 1 => if poisoned then bad s a else store s a d
  | _ => if poisoned then (wordsOf a d.length).foldl (fun s w => poison s (second c (w * 32)) 32) (bad s a) else storeKept s a d

/-- A host write, cut where it crosses a 2 MiB boundary. -/
def hostStore (s : State) (poisoned : Bool) (a : Nat) (d : List Byte) : State :=
  let n := page - a % page
  let s := tally s 4 true a d.length
  if d.length ≤ n then hostPut s poisoned a d else hostPut (hostPut s poisoned a (d.take n)) poisoned (a + n) (d.drop n)

/-- A BAR4 access reaches the device. -/
def bar4Row (s : State) (sec : Bool) (a n : Nat) (no f : State → State) : State :=
  if !(hostOn s || romOn s) || secGone s sec then s
  else if ideShut s sec then reply s .unsupported
  else if !bar4Open s a n then no (countBad s 2 a)
  else f s

/-- BAR4_WRITE (R276, R573) -/
def execBar4Write (sec : Bool) (off : Nat) (data : List Byte) (poisoned : Bool) (s : State) : Res :=
  let n := fun s => if poisoned then countPoison s else s
  .next (bar4Row s sec off data.length n fun s => n (hostStore s poisoned off data))

/-- Bytes whose layout the spec does not give (log entry 117): the device's retained state, and the workspace pool while a command that has
written to it holds a part of it. -/
def unlaid (s : State) (a : Nat) : Bool :=
  let c := s.cfg.conf
  (rgnOf c a = 3 && a < rgnBase c 3 * page + 0x1000000)
    || (rgnOf c a = 2 && s.cmd.streams.any fun x => x.2.journal.any fun e =>
      match e.plan with | some p => decide (0 < p.wsBytes) && e.work ≠ [] | none => false)

/-- What the host reads at an address (R276): the data, zero in the shadow and device-internal regions, and a free value where the data is lost
with its slice or its layout is the device's own, which the spec does not state. -/
def hostByte (s : State) (a i : Nat) : Byte :=
  if 4 ≤ rgnOf s.cfg.conf a then 0
  else if addrLost s a || unlaid s a then (Config.freeValue (s.free + i)).setWidth 8
  else rdB s.mem a

/-- A host read (R276, R294, R295): an uncorrectable word gives a Poisoned TLP. -/
def hostLoad (s : State) (a n : Nat) : State :=
  let shut := (List.range n).any fun i => 4 ≤ rgnOf s.cfg.conf (a + i)
  let s := tally s 4 false a n
  let s := if shut then { s with ser := { s.ser with paViol := true } } else s
  let open_ := if shut then (List.range n).countP fun i => rgnOf s.cfg.conf (a + i) < 4 else n
  let (s, b) := fetch s a open_
  match b with
  | some x => reply (captureUe s x) .poisonedTlp
  | none =>
    let d := (List.range n).map fun i => hostByte s (a + i) i
    { reply s (.bytes d) with free := if d.isEmpty then s.free else s.free + n }

/-- BAR4_READ (R276, R572): a read that R572 refuses returns zero. -/
def execBar4Read (sec : Bool) (off len : Nat) (s : State) : Res :=
  .next (bar4Row s sec off len (fun s => reply s (.bytes (List.replicate len 0))) fun s => hostLoad s off len)

/-- ATOMICOP_REQUEST (R573) -/
def execAtomicopRequest (bar : Fin 3) (off : Nat) (s : State) : Res :=
  let _ := (bar, off)
  .next (if hostOn s || romOn s then reply s .unsupported else s)

/-! ### Configuration requests (R574, R575) -/

/-- The host link answers configuration requests (R510, R536, R549): in POWERUP too, where the boot ROM has stopped. -/
def configOn (s : State) : Bool := s.pwr.phase = .on && s.hif.up && s.ras.io0

/-- MSIX_UNMASK (R575): a vector is unmasked, or MSI-X is enabled with its Function Mask clear; messages that waited go out. -/
def execMsixUnmask (vec : Option (BitVec 11)) (s : State) : Res :=
  .next (if !configOn s then s
    else match vec with
      | some v =>
        if !hostOn s || inHold s then s
        else
          let h := s.hif
          let i := 2 * v.toNat + 1
          let d := msixDflt i
          flushHost { s with hif := { h with msix := tput h.msix i (setBits (tget h.msix i d) 32 1 0) d } }
      | none => flushHost { s with hif := { s.hif with msixEn := true, fmask := false } })

/-- BUS_MASTER_ENABLE (R574): what waited in the device may go out. -/
def execBusMasterEnable (s : State) : Res :=
  .next (if configOn s then flushHost { s with hif := { s.hif with bme := true } } else s)

/-! ### The management interface (R571, R582 to R584) -/

/-- The states of a PLDM sensor (R583). -/
inductive SensorState where
  | normal | upperWarning | upperCritical | upperFatal | lowerCritical
deriving DecidableEq, Repr

/-- The value and the state of a PLDM sensor (R583): the numeric sensors 1 to 5, the device state and the capacity. A reading at a threshold counts as
beyond it (log entry 119). -/
def sensor (s : State) (id : Nat) : Option (Nat × SensorState) :=
  let d := s.pldm
  match id with
  | 1 => some (d.pin, if s.pwr.cap ≤ d.pin then .upperCritical else .normal)
  | 2 => some (d.vin, if d.vin ≤ 4600 then .lowerCritical else if 5800 ≤ d.vin then .upperCritical else .normal)
  | 3 => some (d.tj, if 105 ≤ d.tj then .upperFatal else if 95 ≤ d.tj then .upperCritical else .normal)
  | 4 => some (d.thbm, if 95 ≤ d.thbm then .upperCritical else if 85 ≤ d.thbm then .upperWarning else .normal)
  | 5 => some (d.ein, .normal)
  | 6 => some (s.cfg.st.code, if inHold s then .upperCritical else .normal)
  | 7 => some (b2n (degraded s), if degraded s then .upperWarning else .normal)
  | _ => none

/-- The management interface answers (R50, R582): from the end of POWERUP, HOLD included, while IO0 is in service. -/
def mgmtOn (s : State) : Bool := firmwareOn s && s.ras.io0

/-- Apply the selection pairs; none where an offset is no selection register. -/
def selPairs : List (Nat × Nat) → Sel → Option Sel
  | [], m => some m
  | (o, v) :: r, m => (selWrite m o v).bind (selPairs r)

/-- A request body of a command (R584): the selections it makes, its offset, count and value; none where it is malformed. -/
def mctpParse (cmd : Nat) (body : List Byte) (m : Sel) : Option (Sel × Nat × Nat × Nat) :=
  let n := (body.getD 1 0).toNat
  let p := 2 + 12 * n
  let off := leNat (slice body p 4)
  let cnt := (body.getD (p + 4) 0).toNat
  let pairs := (List.range n).map fun i => (leNat (slice body (2 + 12 * i) 4), leNat (slice body (6 + 12 * i) 8))
  if body = [] || (body.getD 0 0).toNat ≠ cmd || 4 < n || off % 8 ≠ 0 || cnt = 0 || 32 < cnt then none
  else if cmd = 1 && body.length = p + 5 then (selPairs pairs m).map fun m => (m, off, cnt, 0)
  else if cmd = 2 && body.length = p + 13 && cnt = 1 && off = 0xA00008 then (selPairs pairs m).map fun m => (m, off, cnt, leNat (slice body (p + 5) 8))
  else none

/-- MCTP_REGISTER_READ (R584): values of consecutive registers under the management path's own selections. -/
def execMctpRegisterRead (body : List Byte) (s : State) : Res :=
  .next (if !mgmtOn s then s
    else match mctpParse 1 body s.selM with
      | none => reply s (.mctp 1 [])
      | some (m, off, cnt, _) =>
        freshFree (reply { s with selM := m } (.mctp 0 ((List.range cnt).map fun i => BitVec.ofNat 64 (readReg s m (off + 8 * i))))))

/-- MCTP_REGISTER_WRITE (R584): accepted for PWR_CAP_USER alone. -/
def execMctpRegisterWrite (body : List Byte) (s : State) : Res :=
  .next (if !mgmtOn s then s
    else match mctpParse 2 body s.selM with
      | none => reply s (.mctp 1 [])
      | some (m, _, _, v) => reply (setUcap { s with selM := m } (BitVec.ofNat 64 v)) (.mctp 0 []))

end Sys2Proof.Machine
end

