-- ==== Sys2Proof/Machine/Dispatch.lean ====
section
/-! DEFINITION. The dispatcher: one arm per command, each one direct call of its meaning. -/

namespace Sys2Proof.Machine

/-- What a command does to the state (everything but the queue). -/
def exec (i : Instr) (s : State) : Host.Outcome State Fault Refusal :=
  match i with
  | .copy st ph => Sys2Proof.Machine.execCopy st ph s
  | .gather st ph => Sys2Proof.Machine.execGather st ph s
  | .scatter st ph => Sys2Proof.Machine.execScatter st ph s
  | .matmul st ph => Sys2Proof.Machine.execMatmul st ph s
  | .gmatmul st ph => Sys2Proof.Machine.execGmatmul st ph s
  | .ewise st ph => Sys2Proof.Machine.execEwise st ph s
  | .reduce st ph => Sys2Proof.Machine.execReduce st ph s
  | .topk st ph => Sys2Proof.Machine.execTopk st ph s
  | .runProgram st ph => Sys2Proof.Machine.execRunProgram st ph s
  | .allreduce st ph => Sys2Proof.Machine.execAllreduce st ph s
  | .reduceScatter st ph => Sys2Proof.Machine.execReduceScatter st ph s
  | .allgather st ph => Sys2Proof.Machine.execAllgather st ph s
  | .dispatch st ph => Sys2Proof.Machine.execDispatch st ph s
  | .combine st ph => Sys2Proof.Machine.execCombine st ph s
  | .optUpdate st ph => Sys2Proof.Machine.execOptUpdate st ph s
  | .initStep st ph => Sys2Proof.Machine.execInitStep st ph s
  | .scan st ph => Sys2Proof.Machine.execScan st ph s
  | .agree st ph => Sys2Proof.Machine.execAgree st ph s
  | .commit st ph => Sys2Proof.Machine.execCommit st ph s
  | .initTscale st ph => Sys2Proof.Machine.execInitTscale st ph s
  | .quant st ph => Sys2Proof.Machine.execQuant st ph s
  | .signal st ph => Sys2Proof.Machine.execSignal st ph s
  | .wait st ph => Sys2Proof.Machine.execWait st ph s
  | .fence st ph => Sys2Proof.Machine.execFence st ph s
  | .snapBegin st ph => Sys2Proof.Machine.execSnapBegin st ph s
  | .snapEnd st ph => Sys2Proof.Machine.execSnapEnd st ph s
  | .digestCompute st ph => Sys2Proof.Machine.execDigestCompute st ph s
  | .digestCompare st ph => Sys2Proof.Machine.execDigestCompare st ph s
  | .digestGroup st ph => Sys2Proof.Machine.execDigestGroup st ph s
  | .trace st ph => Sys2Proof.Machine.execTrace st ph s
  | .seal st ph => Sys2Proof.Machine.execSeal st ph s
  | .loadProgram st ph => Sys2Proof.Machine.execLoadProgram st ph s
  | .loadProgramDirect st ph => Sys2Proof.Machine.execLoadProgramDirect st ph s
  | .dbPiWrite sec st pi => Sys2Proof.Machine.execDbPiWrite sec st pi s
  | .push t => Sys2Proof.Machine.execPush t s
  | .pushResp t => Sys2Proof.Machine.execPushResp t s
  | .commandStart st => Sys2Proof.Machine.execCommandStart st s
  | .workspaceWaitPlan st => Sys2Proof.Machine.execWorkspaceWaitPlan st s
  | .phasePublish st => Sys2Proof.Machine.execPhasePublish st s
  | .tileTake c => Sys2Proof.Machine.execTileTake c s
  | .commandComplete st => Sys2Proof.Machine.execCommandComplete st s
  | .completionEntryWrite st => Sys2Proof.Machine.execCompletionEntryWrite st s
  | .streamCloseEffect st => Sys2Proof.Machine.execStreamCloseEffect st s
  | .escortTimeout st => Sys2Proof.Machine.execEscortTimeout st s
  | .nop t sl => Sys2Proof.Machine.execNop t sl s
  | .endProg t => Sys2Proof.Machine.execEndProg t s
  | .idle t => Sys2Proof.Machine.execIdle t s
  | .waitx t => Sys2Proof.Machine.execWaitx t s
  | .loop t => Sys2Proof.Machine.execLoop t s
  | .lds t => Sys2Proof.Machine.execLds t s
  | .sts t => Sys2Proof.Machine.execSts t s
  | .mma t => Sys2Proof.Machine.execMma t s
  | .zat t => Sys2Proof.Machine.execZat t s
  | .vadd t => Sys2Proof.Machine.execVadd t s
  | .vsub t => Sys2Proof.Machine.execVsub t s
  | .vmul t => Sys2Proof.Machine.execVmul t s
  | .vfma t => Sys2Proof.Machine.execVfma t s
  | .vdiv t => Sys2Proof.Machine.execVdiv t s
  | .vsqrt t => Sys2Proof.Machine.execVsqrt t s
  | .vmin t => Sys2Proof.Machine.execVmin t s
  | .vmax t => Sys2Proof.Machine.execVmax t s
  | .vcvt t => Sys2Proof.Machine.execVcvt t s
  | .vld t sl => Sys2Proof.Machine.execVld t sl s
  | .vst t sl => Sys2Proof.Machine.execVst t sl s
  | .vmov t sl => Sys2Proof.Machine.execVmov t sl s
  | .drain t fault full => Sys2Proof.Machine.execDrain t fault full s
  | .tmrg t => Sys2Proof.Machine.execTmrg t s
  | .transferComplete t tok => Sys2Proof.Machine.execTransferComplete t tok s
  | .outboundQueueFree t => Sys2Proof.Machine.execOutboundQueueFree t s
  | .imLoadDone t bankB => Sys2Proof.Machine.execImLoadDone t bankB s
  | .imBankSwitch t => Sys2Proof.Machine.execImBankSwitch t s
  | .trapScan st => Sys2Proof.Machine.execTrapScan st s
  | .scheduleFaultResolve st => Sys2Proof.Machine.execScheduleFaultResolve st s
  | .uncorrectableCommandFail st => Sys2Proof.Machine.execUncorrectableCommandFail st s
  | .heldJobService t nb => Sys2Proof.Machine.execHeldJobService t nb s
  | .replayDecision t devS devN chkS chkN recomp => Sys2Proof.Machine.execReplayDecision t devS devN chkS chkN recomp s
  | .thirdReplayDecision t t3 dev => Sys2Proof.Machine.execThirdReplayDecision t t3 dev s
  | .tileSelftestDone t pass level => Sys2Proof.Machine.execTileSelftestDone t pass level s
  | .spareFillDone c pass => Sys2Proof.Machine.execSpareFillDone c pass s
  | .shadowCompare st job prim shad third again => Sys2Proof.Machine.execShadowCompare st job prim shad third again s
  | .clusterRegulatorFault c => Sys2Proof.Machine.execClusterRegulatorFault c s
  | .regulatorSelftestDone c pass => Sys2Proof.Machine.execRegulatorSelftestDone c pass s
  | .activeLockstepMismatch => Sys2Proof.Machine.execActiveLockstepMismatch s
  | .standbyLockstepMismatch => Sys2Proof.Machine.execStandbyLockstepMismatch s
  | .planeSelftestDone pass => Sys2Proof.Machine.execPlaneSelftestDone pass s
  | .fabricLinkFail d1 d2 => Sys2Proof.Machine.execFabricLinkFail d1 d2 s
  | .rootPllUnlock => Sys2Proof.Machine.execRootPllUnlock s
  | .dieLoss p => Sys2Proof.Machine.execDieLoss p s
  | .retentionRebuildDone => Sys2Proof.Machine.execRetentionRebuildDone s
  | .monitorSample samples => Sys2Proof.Machine.execMonitorSample samples s
  | .marginReplan c => Sys2Proof.Machine.execMarginReplan c s
  | .scrubRead hbm err => Sys2Proof.Machine.execScrubRead hbm err s
  | .hbmRowRetire k pc blk => Sys2Proof.Machine.execHbmRowRetire k pc blk s
  | .hbmPprDone at_ ok => Sys2Proof.Machine.execHbmPprDone at_ ok s
  | .stageBlockDone st blk => Sys2Proof.Machine.execStageBlockDone st blk s
  | .dataFlit p f => Sys2Proof.Machine.execDataFlit p f s
  | .ackFlit p f => Sys2Proof.Machine.execAckFlit p f s
  | .nakFlit p f => Sys2Proof.Machine.execNakFlit p f s
  | .idleFlit p f => Sys2Proof.Machine.execIdleFlit p f s
  | .laneMapFlit p f map gen eff => Sys2Proof.Machine.execLaneMapFlit p f map gen eff s
  | .linkUpFlit p f plane swPort domain cv => Sys2Proof.Machine.execLinkUpFlit p f plane swPort domain cv s
  | .laneFail p lane => Sys2Proof.Machine.execLaneFail p lane s
  | .laneMapSwitch p => Sys2Proof.Machine.execLaneMapSwitch p s
  | .codewordLockLoss p => Sys2Proof.Machine.execCodewordLockLoss p s
  | .portRetrainDone p ok => Sys2Proof.Machine.execPortRetrainDone p ok s
  | .ackInterval p => Sys2Proof.Machine.execAckInterval p s
  | .linkUpRetry p => Sys2Proof.Machine.execLinkUpRetry p s
  | .write t => Sys2Proof.Machine.execWrite t s
  | .read t => Sys2Proof.Machine.execRead t s
  | .readData t => Sys2Proof.Machine.execReadData t s
  | .ack t => Sys2Proof.Machine.execAck t s
  | .remoteSignal t => Sys2Proof.Machine.execRemoteSignal t s
  | .unreach t => Sys2Proof.Machine.execUnreach t s
  | .hello t => Sys2Proof.Machine.execHello t s
  | .seg t => Sys2Proof.Machine.execSeg t s
  | .abort t => Sys2Proof.Machine.execAbort t s
  | .count t => Sys2Proof.Machine.execCount t s
  | .accept t => Sys2Proof.Machine.execAccept t s
  | .caravan t => Sys2Proof.Machine.execCaravan t s
  | .returnRows t => Sys2Proof.Machine.execReturnRows t s
  | .mirror t => Sys2Proof.Machine.execMirror t s
  | .withdraw t => Sys2Proof.Machine.execWithdraw t s
  | .done t => Sys2Proof.Machine.execDone t s
  | .beat t => Sys2Proof.Machine.execBeat t s
  | .lost t => Sys2Proof.Machine.execLost t s
  | .page t => Sys2Proof.Machine.execPage t s
  | .snapsync t => Sys2Proof.Machine.execSnapsync t s
  | .adopt t => Sys2Proof.Machine.execAdopt t s
  | .journal t => Sys2Proof.Machine.execJournal t s
  | .rebuild t => Sys2Proof.Machine.execRebuild t s
  | .restore t => Sys2Proof.Machine.execRestore t s
  | .release t => Sys2Proof.Machine.execRelease t s
  | .transactionDiscard t => Sys2Proof.Machine.execTransactionDiscard t s
  | .e2eTimeout dst eseq => Sys2Proof.Machine.execE2eTimeout dst eseq s
  | .e2eGiveUp dst eseq => Sys2Proof.Machine.execE2eGiveUp dst eseq s
  | .beatTimer => Sys2Proof.Machine.execBeatTimer s
  | .lossTimeout n => Sys2Proof.Machine.execLossTimeout n s
  | .portsDownTimeout => Sys2Proof.Machine.execPortsDownTimeout s
  | .sealInterval => Sys2Proof.Machine.execSealInterval s
  | .evidenceLogWrite => Sys2Proof.Machine.execEvidenceLogWrite s
  | .governorTick u e pin => Sys2Proof.Machine.execGovernorTick u e pin s
  | .thermalTick tj thbm => Sys2Proof.Machine.execThermalTick tj thbm s
  | .softStart vin => Sys2Proof.Machine.execSoftStart vin s
  | .inputCollapse vin => Sys2Proof.Machine.execInputCollapse vin s
  | .inputOvervoltage vin => Sys2Proof.Machine.execInputOvervoltage vin s
  | .inputRestart vin => Sys2Proof.Machine.execInputRestart vin s
  | .junctionShutdown tj => Sys2Proof.Machine.execJunctionShutdown tj s
  | .opticalOverpower p => Sys2Proof.Machine.execOpticalOverpower p s
  | .referenceLost => Sys2Proof.Machine.execReferenceLost s
  | .referenceReturn => Sys2Proof.Machine.execReferenceReturn s
  | .hostReferenceLost => Sys2Proof.Machine.execHostReferenceLost s
  | .seatDeassert => Sys2Proof.Machine.execSeatDeassert s
  | .coldRst => Sys2Proof.Machine.execColdRst s
  | .coldRstRelease => Sys2Proof.Machine.execColdRstRelease s
  | .perst asserted => Sys2Proof.Machine.execPerst asserted s
  | .functionLevelReset => Sys2Proof.Machine.execFunctionLevelReset s
  | .warmReset => Sys2Proof.Machine.execWarmReset s
  | .bootRomStart => Sys2Proof.Machine.execBootRomStart s
  | .configure => Sys2Proof.Machine.execConfigure s
  | .selftest failTiles failRegs kv kf samples => Sys2Proof.Machine.execSelftest failTiles failRegs kv kf samples s
  | .serviceEntry => Sys2Proof.Machine.execServiceEntry s
  | .streamOpen sec => Sys2Proof.Machine.execStreamOpen sec s
  | .streamClose sec => Sys2Proof.Machine.execStreamClose sec s
  | .streamPause sec => Sys2Proof.Machine.execStreamPause sec s
  | .streamResume sec => Sys2Proof.Machine.execStreamResume sec s
  | .cmdSyncAdd sec v => Sys2Proof.Machine.execCmdSyncAdd sec v s
  | .cmdSyncMax sec v => Sys2Proof.Machine.execCmdSyncMax sec v s
  | .breakpointResume sec => Sys2Proof.Machine.execBreakpointResume sec s
  | .cmdFnDis sec v => Sys2Proof.Machine.execCmdFnDis sec v s
  | .cmdCringCfg sec v => Sys2Proof.Machine.execCmdCringCfg sec v s
  | .cmdCringHt sec ring head => Sys2Proof.Machine.execCmdCringHt sec ring head s
  | .tilVoEnt sec v => Sys2Proof.Machine.execTilVoEnt sec v s
  | .portDisable sec dis => Sys2Proof.Machine.execPortDisable sec dis s
  | .portRetrain sec => Sys2Proof.Machine.execPortRetrain sec s
  | .laneReset sec => Sys2Proof.Machine.execLaneReset sec s
  | .groupCommit sec => Sys2Proof.Machine.execGroupCommit sec s
  | .groupInvalidate sec => Sys2Proof.Machine.execGroupInvalidate sec s
  | .tileSelftestRun sec => Sys2Proof.Machine.execTileSelftestRun sec s
  | .returnAsSpare sec => Sys2Proof.Machine.execReturnAsSpare sec s
  | .marginReplanNow sec => Sys2Proof.Machine.execMarginReplanNow sec s
  | .jobResume sec => Sys2Proof.Machine.execJobResume sec s
  | .jobRelease sec => Sys2Proof.Machine.execJobRelease sec s
  | .jobReplay sec => Sys2Proof.Machine.execJobReplay sec s
  | .pwrCapUser sec v => Sys2Proof.Machine.execPwrCapUser sec v s
  | .cfgApply sec => Sys2Proof.Machine.execCfgApply sec s
  | .ownershipTransfer sec => Sys2Proof.Machine.execOwnershipTransfer sec s
  | .enterMaintenance sec => Sys2Proof.Machine.execEnterMaintenance sec s
  | .leaveMaintenance sec => Sys2Proof.Machine.execLeaveMaintenance sec s
  | .cfgWarmReset sec => Sys2Proof.Machine.execCfgWarmReset sec s
  | .fwuBegin sec => Sys2Proof.Machine.execFwuBegin sec s
  | .fwuWrite sec => Sys2Proof.Machine.execFwuWrite sec s
  | .fwuInstall sec => Sys2Proof.Machine.execFwuInstall sec s
  | .flashOperationDone ok => Sys2Proof.Machine.execFlashOperationDone ok s
  | .handover sec fwSel cfgSel win => Sys2Proof.Machine.execHandover sec fwSel cfgSel win s
  | .standbyRebuildDone => Sys2Proof.Machine.execStandbyRebuildDone s
  | .fwuConfirm sec => Sys2Proof.Machine.execFwuConfirm sec s
  | .fwuFallback sec => Sys2Proof.Machine.execFwuFallback sec s
  | .healthWindowExpiry => Sys2Proof.Machine.execHealthWindowExpiry s
  | .healthSignalTimeout => Sys2Proof.Machine.execHealthSignalTimeout s
  | .formerPlaneRestartDone => Sys2Proof.Machine.execFormerPlaneRestartDone s
  | .ideLock sec => Sys2Proof.Machine.execIdeLock sec s
  | .ideCheckFail strm => Sys2Proof.Machine.execIdeCheckFail strm s
  | .registerWrite sec bar off size v poisoned => Sys2Proof.Machine.execRegisterWrite sec bar off size v poisoned s
  | .bar4Write sec off data poisoned => Sys2Proof.Machine.execBar4Write sec off data poisoned s
  | .bar4Read sec off len => Sys2Proof.Machine.execBar4Read sec off len s
  | .atomicopRequest bar off => Sys2Proof.Machine.execAtomicopRequest bar off s
  | .mctpRegisterRead body => Sys2Proof.Machine.execMctpRegisterRead body s
  | .mctpRegisterWrite body => Sys2Proof.Machine.execMctpRegisterWrite body s
  | .getVersion tr => Sys2Proof.Machine.execGetVersion tr s
  | .getCapabilities tr => Sys2Proof.Machine.execGetCapabilities tr s
  | .negotiateAlgorithms tr => Sys2Proof.Machine.execNegotiateAlgorithms tr s
  | .getDigests tr => Sys2Proof.Machine.execGetDigests tr s
  | .getCertificate tr slot off len => Sys2Proof.Machine.execGetCertificate tr slot off len s
  | .challenge tr slot nonce => Sys2Proof.Machine.execChallenge tr slot nonce s
  | .getMeasurements tr idx nonce => Sys2Proof.Machine.execGetMeasurements tr idx nonce s
  | .keyExchange tr => Sys2Proof.Machine.execKeyExchange tr s
  | .finish tr ses ok => Sys2Proof.Machine.execFinish tr ses ok s
  | .heartbeat tr ses => Sys2Proof.Machine.execHeartbeat tr ses s
  | .keyUpdate tr ses => Sys2Proof.Machine.execKeyUpdate tr ses s
  | .endSession tr ses => Sys2Proof.Machine.execEndSession tr ses s
  | .laserModuleFail lm1 => Sys2Proof.Machine.execLaserModuleFail lm1 s
  | .laserLatchOpen lm1 => Sys2Proof.Machine.execLaserLatchOpen lm1 s
  | .laserLatchClose lm1 seated known => Sys2Proof.Machine.execLaserLatchClose lm1 seated known s
  | .laserSelftestDone lm1 pass => Sys2Proof.Machine.execLaserSelftestDone lm1 pass s
  | .laserRampDone lm1 => Sys2Proof.Machine.execLaserRampDone lm1 s
  | .hostReferenceReturn => Sys2Proof.Machine.execHostReferenceReturn s
  | .ideKm ses strm => Sys2Proof.Machine.execIdeKm ses strm s
  | .msixUnmask vec => Sys2Proof.Machine.execMsixUnmask vec s
  | .busMasterEnable => Sys2Proof.Machine.execBusMasterEnable s
  | .handoverAborted => Sys2Proof.Machine.execHandoverAborted s
  | .declaredUnhealthy => Sys2Proof.Machine.execDeclaredUnhealthy s
  | .opcodeRefused st => Sys2Proof.Machine.execOpcodeRefused st s
  | .recordUnreadable st => Sys2Proof.Machine.execRecordUnreadable st s

end Sys2Proof.Machine
end

