-- ==== Sys2Proof/Machine/Step.lean ====
section
/-! DEFINITION. One step: the command at the front of the queue, run on the state with the queue's rest. -/

namespace Sys2Proof.Machine

/-- A state with another queue of waiting commands. -/
def State.withQueue (s : State) (q : List Instr) : State := { s with pending := q }

/-- Take the command at the front of the queue and run it on the state with the queue's rest; with nothing waiting
the block idles (log entry 5). -/
def step (s : State) : Host.Outcome State Fault Refusal :=
  match s.pending with
  | [] => .next s
  | c :: q => exec c (s.withQueue q)

/-- The state with the command that a word spells put at the front of its queue; unchanged where it spells none. -/
def State.withFetchWord (s : State) (nbits w : Nat) : State :=
  match Sys2Proof.decodeTableWord nbits w with
  | none => s
  | some c => s.withQueue (c :: s.pending)

end Sys2Proof.Machine
end

