-- ==== Sys2Proof/Safety.lean ====
section
/-! DEFINITION. What counts as a safe run, and the terms in which claims speak of states: canonical memory, and what a
command leaves as it was. -/

namespace Sys2Proof.Machine

/-- One step answers a next state: no step stops, whatever is queued. -/
def Safe (s : State) : Prop := ∃ t, step s = .next t

/-- A sparse table in canonical form from a key on: keys strictly rising, no entry equal to the default. -/
def tblFrom {α : Type} [DecidableEq α] (d : α) : Nat → Tbl α → Bool
  | _, [] => true
  | lo, e :: r => decide (lo ≤ e.1) && decide (e.2 ≠ d) && tblFrom d (e.1 + 1) r

/-- Memory is in its one canonical form: the bytes listed in rising order of address and none of them 0, and the same of the
words with an error. -/
def Memory.wf (m : Mem) : Bool := tblFrom (0 : Byte) 0 m.cells && tblFrom (0 : BitVec 288) 0 m.err

/-- Every byte of memory reads as before. -/
def SameBytes (s t : State) : Prop := ∀ a, rdB t.mem a = rdB s.mem a

/-- Every byte of memory outside n bytes from an address reads as before. -/
def SameBytesBut (a n : Nat) (s t : State) : Prop := ∀ x, x < a ∨ a + n ≤ x → rdB t.mem x = rdB s.mem x

/-- Every byte of memory outside the bytes that a list of writes (bit address, width, value) reaches reads as before. -/
def SameBytesOutside (l : List (Nat × Nat × Nat)) (s t : State) : Prop :=
  ∀ x, (∀ w ∈ l, w.2.1 = 0 ∨ x < w.1 / 8 ∨ (w.1 + w.2.1 - 1) / 8 < x) → rdB t.mem x = rdB s.mem x

/-- Every stream but one is as before. -/
def SameStreamsBut (n : Nat) (s t : State) : Prop := ∀ k, k ≠ n → strmOf t k = strmOf s k

/-- Every tile but one is as before. -/
def SameTilesBut (n : Nat) (s t : State) : Prop := ∀ k, k ≠ n → tileOf t k = tileOf s k

/-- Nothing of the device's outer parts changes: power and clocks, configuration, flash, firmware, security, host interface and lasers. -/
def SameOuter (s t : State) : Prop :=
  t.pwr = s.pwr ∧ t.clk = s.clk ∧ t.cfg = s.cfg ∧ t.flash = s.flash ∧ t.fwu = s.fwu ∧ t.sec = s.sec ∧ t.hif = s.hif ∧ t.pldm = s.pldm
    ∧ t.lm0 = s.lm0 ∧ t.lm1 = s.lm1

/-- Nothing of the device's outer parts changes, or the device went to HOLD on a word of the retained region whose two copies are both uncorrectable (R279). -/
def OuterOrHold (s t : State) : Prop := SameOuter s t ∨ (t.cfg = { s.cfg with st := .hold } ∧ t.pwr = s.pwr ∧ t.flash = s.flash)

/-- Nothing of the surviving blocks changes: faults, escorts, jobs, evidence. -/
def SameService (s t : State) : Prop := t.ras = s.ras ∧ t.esc = s.esc ∧ t.job = s.job ∧ t.evd = s.evd

/-- The record rows with the key that the record's opcode and sub give (R193). -/
def recordRows : List (Nat × (StreamId → Phase → Instr)) :=
  [(0x100, Instr.copy), (0x200, Instr.gather), (0x300, Instr.scatter), (0x1000, Instr.matmul), (0x1100, Instr.gmatmul),
   (0x1200, Instr.ewise), (0x1300, Instr.reduce),
   (0x1400, Instr.topk), (0x1500, Instr.runProgram), (0x2000, Instr.allreduce), (0x2100, Instr.reduceScatter), (0x2200, Instr.allgather),
   (0x2300, Instr.dispatch),
   (0x2400, Instr.combine)]
  ++ [(0x3000, fun st ph => Instr.optUpdate st ph.opt), (0x3101, Instr.initStep), (0x3102, Instr.scan), (0x3103, Instr.agree), (0x3104, Instr.commit),
   (0x3105, Instr.initTscale), (0x3106, Instr.quant),
   (0x4000, Instr.signal), (0x4100, Instr.wait), (0x4200, Instr.fence), (0x5000, Instr.snapBegin), (0x5100, Instr.snapEnd),
   (0x5201, Instr.digestCompute),
   (0x5202, Instr.digestCompare), (0x5203, Instr.digestGroup), (0x6000, Instr.trace), (0x6100, Instr.seal), (0x7000, Instr.loadProgram),
   (0x7001, Instr.loadProgramDirect)]

/-- Command e of a stream is the running command that a record row of a key acts on: the stream's commands go on, e is the first running
one of its key, nothing has stopped it, and it has not yet run. -/
def Runs (s : State) (n key : Nat) (e : Entry) : Prop :=
  runnable s n = true ∧ (∃ i, runningIx (strmOf s n) key = some i ∧ (strmOf s n).journal[i]? = some e) ∧ e.refused = false ∧ e.stop = none
    ∧ e.ran = false ∧ cmdOf s n e.seq = some e

/-- The newest entry of the event log has these fields (R446). -/
def LastEvent (t : State) (det verdict action loc : Nat) : Prop :=
  ∃ e, t.ras.events.getLast? = some e ∧ e.det = det ∧ e.verdict = verdict ∧ e.action = action ∧ e.loc = loc

/-- The event log holds an entry that is new since s, its next one, with these fields (R415, R446). -/
def NewEvent (s t : State) (det verdict action loc : Nat) : Prop :=
  ∃ e ∈ t.ras.events, e.serial = s.ras.next ∧ e.det = det ∧ e.verdict = verdict ∧ e.action = action ∧ e.loc = loc

/-- The slot rows of a tile other than the C slot's: the row, its slot and its opcode there (R151 to R156, R159, R160, R181). -/
def slotRows : List ((TileNo → Instr) × TileSlot × Nat) :=
  [(fun t => Instr.nop t .x, TileSlot.x, 0), (fun t => Instr.nop t .m, TileSlot.m, 0), (fun t => Instr.nop t .v0, TileSlot.v0, 0),
   (fun t => Instr.nop t .v1, TileSlot.v1, 0), (fun t => Instr.nop t .e, TileSlot.e, 0), (Instr.lds, TileSlot.x, 1),
   (Instr.sts, TileSlot.x, 2),
   (Instr.mma, TileSlot.m, 1), (Instr.zat, TileSlot.m, 2), (Instr.vadd, TileSlot.v0, 1), (Instr.vsub, TileSlot.v0, 2),
   (Instr.vmul, TileSlot.v0, 3), (Instr.vfma, TileSlot.v0, 4), (Instr.vdiv, TileSlot.v0, 5), (Instr.vsqrt, TileSlot.v0, 6)]
  ++ [(Instr.vmin, TileSlot.v0, 7), (Instr.vmax, TileSlot.v0, 8), (Instr.vcvt, TileSlot.v0, 9),
   (fun t => Instr.vld t .v0, TileSlot.v0, 0x10), (fun t => Instr.vld t .v1, TileSlot.v1, 0x10),
   (fun t => Instr.vst t .v0, TileSlot.v0, 0x11),
   (fun t => Instr.vst t .v1, TileSlot.v1, 0x11), (fun t => Instr.vmov t .v0, TileSlot.v0, 0x12),
   (fun t => Instr.vmov t .v1, TileSlot.v1, 0x12), (fun t => Instr.drain t none false, TileSlot.e, 1), (Instr.tmrg, TileSlot.e, 2)]

/-- A slot of a tile's current bundle may take effect now: the tile's job and its bundle are at hand and audited, the slot holds an
operation that has not issued, and every earlier slot with an operation has. -/
def SlotReady (s s1 : State) (n : Nat) (sl : TileSlot) (op : Nat) (j : TJob) (e : Entry) (p : Plan) (c : JCtx) (x : Tile) : Prop :=
  fetchBundle s n = (s1, some (j, e, p, c, x)) ∧ slotOp sl (slotOf (c.bun x.bundle) sl) = op ∧ x.issued.contains sl = false
    ∧ ((slotsBefore sl).any fun k => slotOp k (slotOf (c.bun x.bundle) k) ≠ 0 && !x.issued.contains k) = false

/-- The host's write reaches a register: the link carries accesses, its IDE stream is secure, the IDE lock lets it in, and the device is not in HOLD (R509, R561,
R562, R572). -/
def HostWrites (s : State) (sec : Bool) : Prop := hostOn s = true ∧ secGone s sec = false ∧ ideShut s sec = false ∧ inHold s = false

/-- Nothing changes but what Scezer Link holds and what has left the device. -/
def OnlyLink (s t : State) : Prop := t = { s with lnk := t.lnk, out := t.out }

/-- A flit whose codeword decodes and whose CRC holds (R343, R344). -/
def GoodFlit (f : RxFlit) : Prop := cwBad f = false ∧ crcOk f.bytes = true

/-- A transaction that its receiver executes now: the device answers, no rebuild of retained state holds up what writes it (R42), the peer is known with
its domain and incarnation, its number has no kept answer and lies in or after the window (R355 to R357). -/
def FreshTxn (s : State) (t : Txn) : Prop :=
  answers s = true ∧ (s.ser.rebuild = false ∨ t.ttype = 1 ∨ t.ttype = 2) ∧ peerOk s t = true ∧ (∀ a ∈ (peerOf s t.src.toNat).answers, a.1 ≠ t.eseq)
    ∧ ∀ h, newest (peerOf s t.src.toNat).answers = some h → (h - t.eseq).toNat < 1024 ∨ 2 ^ 31 < (h - t.eseq).toNat

/-- What a loss of power leaves at its reset value (R8, R512). -/
def RetainsNothing (t : State) : Prop :=
  t.mem = { cells := [], err := [] } ∧ t.cmd = {} ∧ t.til = {} ∧ t.lnk = {} ∧ t.evd = {} ∧ t.esc = {} ∧ t.job = {} ∧ t.cfg = {} ∧ t.fwu = {}
    ∧ t.sec = {} ∧ t.selH = {} ∧ t.selM = {}

/-- The command and transfer parts are as before: memory, streams and rings, tiles, Scezer Link. -/
def SameWork (s t : State) : Prop := t.mem = s.mem ∧ t.cmd = s.cmd ∧ t.til = s.til ∧ t.lnk = s.lnk

/-- Scezer Link takes part of the work, the other command and transfer parts are as before: memory, streams and rings, tiles, and the
configuration. -/
def SameWorkButLink (s t : State) : Prop := t.mem = s.mem ∧ t.cmd = s.cmd ∧ t.til = s.til ∧ t.cfg = s.cfg

/-- A transaction has been executed and answered (R355): an answer of this type, status and body to its sender is kept under its number, and goes
out on the first plane to that node. -/
def Answered (s u : State) (t : Txn) (ty st : Nat) (body : List Byte) : Prop :=
  ∃ x : Txn, (t.eseq, x) ∈ (peerOf u t.src.toNat).answers ∧ x.ttype = BitVec.ofNat 8 ty ∧ x.src = s.cfg.conf.node ∧ x.dst = t.src
    ∧ x.a = BitVec.ofNat 64 t.eseq.toNat ∧ x.b = BitVec.ofNat 64 st ∧ x.body = body
    ∧ (planesTo s t.src.toNat ≠ [] → ∃ y ∈ u.out.link, { y with plane := x.plane } = x)

/-- A vector fires: as a message, or where none can go out (R574, R575) as a pending bit. -/
def Fired (vec : Nat) (s t : State) : Prop :=
  if (s.hif.msixEn && hostReady s && !s.hif.fmask && !vecMasked s vec) = true
  then t.out.msi = s.out.msi ++ [vec] ∧ t.hif.pba = s.hif.pba else t.out.msi = s.out.msi ∧ vec ∈ t.hif.pba

/-- What R239 asks after an entry of a ring: its vector fires, as a message or, where none can go out (R574, R575), as a pending bit, or does not
fire. -/
def FiredFor (r : Ring) (e : Entry) (s t : State) : Prop :=
  let mode := bits r.cfg.toNat 8 2
  let vec := bits r.cfg.toNat 16 11
  (mode = 0 ∨ (mode = 1 ∧ rIrq e.bytes = true) → Fired vec s t)
  ∧ (mode = 2 ∨ (mode = 1 ∧ rIrq e.bytes = false) → t.out.msi = s.out.msi ∧ t.hif.pba = s.hif.pba)

end Sys2Proof.Machine
end

