-- ==== Sys2Proof/Certificates/Slice0/Obligations.lean ====
section
/-! DEFINITION. The statements for the provers. -/

open Sys2Proof Sys2Proof.Machine

/-! ### The step and the whole machine -/

/-- A step takes the command at the front of the queue and runs it on the state with the queue's rest; with nothing waiting the block idles
(the block's cut, log entry 5). No command stops the machine: whatever the state, each command of the table leads to a next state. It rests
on the readings of log entries 4, 5 and 98. -/
def Obligations.StepRunsFrontCommand : Prop :=
  (∀ (s : State) (c : Instr) (q : List Instr), step (s.withQueue (c :: q)) = exec c (s.withQueue q))
    ∧ (∀ s : State, s.pending = [] → step s = .next s)
    ∧ ∀ (c : Instr) (s : State), ∃ t : State, exec c s = .next t

/-- R512: after a cold start every word of memory reads as zero until it is first written, and no read meets a poisoned one. Each row that
brings a device that is off back on is such a start. -/
def Obligations.ColdStartMemoryReadsZero : Prop :=
  ∀ (s t : State) (vin : Nat) (c : Instr), c ∈ [Instr.softStart vin, .inputRestart vin, .coldRstRelease] → exec c s = .next t →
    s.pwr.phase = .off → t.pwr.phase ≠ .off →
    (∀ a, rdB t.mem a = 0) ∧ ∀ w, badWord t.mem w = false

/-- Memory at reset is in its canonical form and lists nothing: every byte reads as zero (R512) and no word is poisoned. It rests on the
readings of log entry 1. -/
def Obligations.ResetMemoryIsCanonical : Prop :=
  Memory.wf State.reset.mem = true ∧ (∀ a, rdB State.reset.mem a = 0) ∧ ∀ w, badWord State.reset.mem w = false

/-- Memory keeps its one canonical form through every step, whatever command is at the front (the model's own invariant). -/
def Obligations.StepKeepsMemoryCanonical : Prop :=
  ∀ s t : State, Memory.wf s.mem = true → step s = .next t → Memory.wf t.mem = true

/-- R535: a replay-protected counter is only ever advanced. The boot count is a 32-bit number: it advances by one, and at its greatest
value it stays (log entry 12). -/
def Obligations.CountersOnlyAdvance : Prop :=
  ∀ s t : State, step s = .next t →
    s.flash.ctr0 ≤ t.flash.ctr0 ∧ s.flash.ctr1 ≤ t.flash.ctr1 ∧ s.flash.ctr3 ≤ t.flash.ctr3
      ∧ (t.flash.ctr2 = s.flash.ctr2 ∨ t.flash.ctr2 = min 0xFFFFFFFF (s.flash.ctr2 + 1))

/-- R509: a cold start is the only way out of HOLD. Where a step leaves HOLD, every configuration register is at its reset value, and
memory lists nothing. -/
def Obligations.OnlyColdStartLeavesHold : Prop :=
  ∀ s t : State, s.cfg.st = .hold → step s = .next t → t.cfg.st ≠ .hold → t.cfg = {} ∧ t.mem = { cells := [], err := [] } ∧ t.cmd = {}

/-! ### Command streams -/

/-- R213, R216: each record row consumes the record of its opcode at the stream's ci, where that passes every check, and appends it to the
journal as accepted; ci and nseq advance by one, memory and every other stream stay as they were. It rests on the readings of log entry 90. -/
def Obligations.RecordRowsAccept : Prop :=
  ∀ k ∈ recordRows, ∀ (st : StreamId) (s : State) (ext : List Byte),
    let n := st.toNat
    let x := strmOf s n
    let r := rd s.mem (slotAddr x x.ci) 256
    let s1 := modStrm s n fun x => { x with ci := x.ci + 1 }
    s.mem.err = [] → mayConsume s n = true → rowKey r = k.1 → famOf (rOpc r) ≠ none → (readExt s1 r).2 = some ext →
    escorted x = false → decideRec (readExt s1 r).1 n r (some ext) (!bit x.cfg.toNat 2) = .accept →
    ∃ (t : State) (e : Entry), exec (k.2 st .consume) s = .next t
      ∧ (strmOf t n).ci = x.ci + 1 ∧ (strmOf t n).nseq = x.nseq + 1 ∧ (strmOf t n).journal = x.journal ++ [e]
      ∧ e.seq = rSeq r ∧ e.st = .accepted ∧ e.refused = false ∧ e.bytes = r ∧ e.ext = ext ∧ e.stop = none ∧ e.ran = false
      ∧ t.mem = s.mem ∧ t.til = s.til ∧ SameStreamsBut n s t ∧ SameOuter s t ∧ SameService s t

/-- R194: outside SERVICE, of which HANDOVER is a sub-state, and MAINTENANCE no record is consumed and nothing is refused: the state stays
as it is. -/
def Obligations.RecordsWaitOutsideService : Prop :=
  ∀ (s : State) (st : StreamId), s.cfg.st ≠ .service → s.cfg.st ≠ .maintenance →
    (∀ k ∈ recordRows, exec (k.2 st .consume) s = .next s) ∧ exec (.opcodeRefused st) s = .next s ∧ exec (.recordUnreadable st) s = .next s

/-- R193, R607: a record whose opcode is not permitted is refused with 0x0105, and one with an uncorrectable word with 0x0110: ci advances,
a refusal entry joins the completion order, nothing is accepted. It rests on the readings of log entry 90. -/
def Obligations.RefusedRecordsAreConsumed : Prop :=
  (∀ (st : StreamId) (s : State),
    let n := st.toNat
    let x := strmOf s n
    let r := rd s.mem (slotAddr x x.ci) 256
    s.mem.err = [] → mayConsume s n = true → opPermitted s x r = false → x.closing = false → rStream r = n → bit x.cfg.toNat 2 = false →
    rSeq r = x.nseq →
    ∃ (t : State) (e : Entry), exec (.opcodeRefused st) s = .next t ∧ (strmOf t n).ci = x.ci + 1 ∧ (strmOf t n).nseq = x.nseq
      ∧ (strmOf t n).journal = x.journal ++ [e] ∧ e.refused = true ∧ e.st = .done ∧ e.status = 0x0105 ∧ t.mem = s.mem ∧ SameStreamsBut n s t)
  ∧ (∀ (st : StreamId) (s : State),
    let n := st.toNat
    let x := strmOf s n
    mayConsume s n = true → (readWords s (slotAddr x x.ci) 256).2 ≠ [] → (readWords s (slotAddr x x.ci) 256).1.cmd = s.cmd →
    ∃ (t : State) (e : Entry), exec (.recordUnreadable st) s = .next t ∧ (strmOf t n).ci = x.ci + 1 ∧ (strmOf t n).nseq = x.nseq
      ∧ (strmOf t n).journal = x.journal ++ [e] ∧ e.refused = true ∧ e.st = .done ∧ e.status = 0x0110 ∧ SameStreamsBut n s t)

/-- R226, R227: a running SIGNAL on this node adds to its sync object, or takes the greater value; a running WAIT whose object has reached
its value is over; R229: a running FENCE is over once every earlier command of its stream has ended, and where sub[0] is 1 once every
earlier entry is written too. Every other sync object stays as it was. -/
def Obligations.SyncRowsRun : Prop :=
  ((∀ (st : StreamId) (s : State) (e : Entry), Runs s st.toNat 0x4000 e → bit (wordAt e.bytes 0x40) 16 = false →
    let i := bits (wordAt e.bytes 0x40) 0 14
    let v := BitVec.ofNat 64 (wordAt e.bytes 0x48)
    ∃ t : State, exec (.signal st .run) s = .next t ∧ cmdOf t st.toNat e.seq = some { e with ran := true }
      ∧ syncOf t i = (if bit (wordAt e.bytes 0x40) 14 then (if syncOf s i < v then v else syncOf s i) else syncOf s i + v)
      ∧ (∀ k, k ≠ i → syncOf t k = syncOf s k) ∧ t.mem = s.mem ∧ t.lnk = s.lnk ∧ t.til = s.til ∧ SameStreamsBut st.toNat s t ∧ SameOuter s t)
  ∧ (∀ (st : StreamId) (s : State) (e : Entry), Runs s st.toNat 0x4100 e →
    wordAt e.bytes 0x48 ≤ (syncOf s (fieldAt e.bytes 0x40 0 14)).toNat →
    ∃ t : State, exec (.wait st .run) s = .next t ∧ cmdOf t st.toNat e.seq = some { e with ran := true } ∧ t.cmd.sync = s.cmd.sync
      ∧ t.mem = s.mem ∧ t.lnk = s.lnk ∧ t.til = s.til ∧ SameStreamsBut st.toNat s t ∧ SameOuter s t))
  ∧ (∀ (st : StreamId) (s : State) (e : Entry), Runs s st.toNat 0x4200 e →
    (∀ p ∈ (strmOf s st.toNat).journal.takeWhile fun p => p.refused || p.seq ≠ e.seq,
      p.st = .completed ∨ (bit (rSub e.bytes) 0 = false ∧ (p.st = .done ∨ p.refused = true))) →
    ∃ t : State, exec (.fence st .run) s = .next t ∧ cmdOf t st.toNat e.seq = some { e with ran := true }
      ∧ t.mem = s.mem ∧ t.lnk = s.lnk ∧ t.til = s.til ∧ t.cmd.sync = s.cmd.sync ∧ SameStreamsBut st.toNat s t ∧ SameOuter s t)

/-- R202, R203: a running COPY, GATHER or SCATTER between local operands is over: it reports its conversions, aux holds the indices out of
range, and no byte outside the destination elements that it writes changes. It rests on the readings of log entries 47 and 48. -/
def Obligations.LocalMovesRun : Prop :=
  ∀ k ∈ [(0x100, Instr.copy), (0x200, Instr.gather), (0x300, Instr.scatter)], ∀ (st : StreamId) (s : State) (e : Entry),
    let rx := e.rx
    let w := moveWrites s s.mem rx
    Runs s st.toNat k.1 e → e.waits = [] → s.mem.err = [] → (parseDesc rx 0x40).rem = false →
    (parseDesc rx (if rOpc rx = 1 then 0x80 else 0xC0)).rem = false →
    ∃ t : State, exec (k.2 st .run) s = .next t
      ∧ cmdOf t st.toNat e.seq
          = some { e with ran := true, nrep := w.2.1.word, aux := BitVec.ofNat 32 (sat 0xFFFFFFFF w.2.2), log := [] }
      ∧ SameBytesOutside w.1 s t ∧ t.lnk = s.lnk ∧ t.til = s.til ∧ t.cmd.sync = s.cmd.sync ∧ SameStreamsBut st.toNat s t ∧ SameOuter s t

/-- R245, R261, R3: a running compute command runs the jobs of its plan phase by phase, as far as their operands are staged, and copies the
outputs that it staged to their places; once it runs no further job it withdraws what it published. Only its own stream, memory, the tiles
and the traffic counters change. It rests on the readings of log entries 91 and 116. -/
def Obligations.ComputeRowsRunTheirPlans : Prop :=
  ∀ k ∈ [(0x1000, Instr.matmul), (0x1100, Instr.gmatmul), (0x1200, Instr.ewise), (0x1300, Instr.reduce), (0x1400, Instr.topk),
      (0x1500, Instr.runProgram)], ∀ (st : StreamId) (s : State) (e : Entry) (p : Plan),
    let u := copyOut (runPhases (p.phases.length + 1) s st.toNat e.seq) st.toNat e.seq
    Runs s st.toNat k.1 e → e.plan = some p → s.mem.err = [] → usable s ≠ 0 →
    ∃ t : State, exec (k.2 st .run) s = .next t
      ∧ (∀ x, cmdOf u st.toNat e.seq = some x →
          t = if x.stop.isSome = true then withdraw u st.toNat e.seq
            else if x.blocks = [] ∨ x.ran = true then dropBatch u st.toNat e.seq else u)
      ∧ SameStreamsBut st.toNat s t ∧ SameOuter s t ∧ t.lnk = s.lnk ∧ t.ras = s.ras ∧ t.esc = s.esc ∧ t.evd = s.evd
      ∧ t.cmd.sync = s.cmd.sync ∧ t.cmd.rings = s.cmd.rings ∧ t.out = s.out

/-- R133, R220, R245: a MATMUL, GMATMUL, EWISE, REDUCE or TOPK of one job, under numerics level NL1 and with its operands in place, that
meets no trap and is not shadowed ends with that job: its effects are over, its report joins the command's, and no byte outside what the
job writes changes. It rests on the readings of log entries 91 and 104. -/
def Obligations.SingleJobCommandsEnd : Prop :=
  ∀ k ∈ [(0x1000, Instr.matmul), (0x1100, Instr.gmatmul), (0x1200, Instr.ewise), (0x1300, Instr.reduce), (0x1400, Instr.topk)],
    ∀ (st : StreamId) (s : State) (e : Entry) (p : Plan) (f : Nat),
    let r := (recEnv s.mem e.rx (BitVec.ofInt 12 p.anchor)).job p e.vo.toNat e.work f
    Runs s st.toNat k.1 e → e.plan = some p → s.mem.err = [] → usable s ≠ 0 → p.phases.length = 1 → p.cur = 0 →
    (∃ kd, p.phases[0]? = some ⟨kd, f, 1⟩) → e.blocks = [] → stagedBlks s st.toNat e.seq = [] → e.copies = [] → e.redo = [] → nlOf e.rx = 1 →
    e.drained = [] → e.shadowed = [] → isHeld s st.toNat e.seq f = false → r.trap = 0 → shadowed s e st.toNat f = false → rOpc e.bytes * 256 = k.1 →
    ∃ (t : State) (e' : Entry), exec (k.2 st .run) s = .next t ∧ cmdOf t st.toNat e.seq = some e' ∧ e'.ran = true ∧ e'.drained = [f] ∧ e'.stop = none
      ∧ e'.nrep = addRep e.nrep r.rep ∧ SameBytesOutside r.wr s t

/-- R167, R204, R608: a running LOAD_PROGRAM whose image breaks a check ends with 0x0408 and loads nothing; one whose image keeps them
records a generation, one above the last for its program id, and loads the inactive banks of the tiles in service that are free to take it
(a direct load: the one bank it names), and its entry reports the generation. It rests on the readings of log entry 94. -/
def Obligations.ProgramLoadsRun : Prop :=
  (∀ k ∈ [(0x7000, Instr.loadProgram), (0x7001, Instr.loadProgramDirect)], ∀ (st : StreamId) (s : State) (e : Entry),
    Runs s st.toNat k.1 e → s.mem.err = [] →
    imgOk (rd s.mem (wordAt e.bytes 0x40 % 2 ^ 44) (64 * fieldAt e.bytes 0x48 0 10)) (fieldAt e.bytes 0x48 0 10) = false →
    ∃ t : State, exec (k.2 st .run) s = .next t ∧ cmdOf t st.toNat e.seq = some (e.finish 0x0408) ∧ t.til = s.til ∧ t.mem = s.mem
      ∧ SameStreamsBut st.toNat s t ∧ SameOuter s t)
  ∧ (∀ (st : StreamId) (s : State) (e : Entry),
    let img := rd s.mem (wordAt e.bytes 0x40 % 2 ^ 44) (64 * fieldAt e.bytes 0x48 0 10)
    let gen := tget s.til.gens (rProg e.bytes) 0 + 1
    Runs s st.toNat 0x7000 e → s.mem.err = [] → e.gen = none → imgOk img (fieldAt e.bytes 0x48 0 10) = true →
    ∃ t : State, exec (.loadProgram st .run) s = .next t
      ∧ cmdOf t st.toNat e.seq = some { e with ran := true, gen := some gen, aux := gen }
      ∧ tget t.til.gens (rProg e.bytes) 0 = gen ∧ ({ pid := rProg e.bytes, gen := gen, img := img, done := false } : Prog) ∈ t.til.progs
      ∧ (∀ n, let x := tileOf s n
          let k : Bank := { pid := BitVec.ofNat 16 (rProg e.bytes), gen := gen, valid := false, loading := true, img := img }
          tileOf t n = if n ∈ allTiles ∧ tileUp s n = true ∧ bankBusy x (!x.actB) = false
            then (if x.actB then { x with imA := k } else { x with imB := k }) else x)
      ∧ t.mem = s.mem ∧ SameStreamsBut st.toNat s t ∧ SameOuter s t)
  ∧ (∀ (st : StreamId) (s : State) (e : Entry),
    let img := rd s.mem (wordAt e.bytes 0x40 % 2 ^ 44) (64 * fieldAt e.bytes 0x48 0 10)
    let gen := tget s.til.gens (rProg e.bytes) 0 + 1
    let n := fieldAt e.bytes 0x48 10 8
    let b := bit (wordAt e.bytes 0x48) 18
    let k : Bank := { pid := BitVec.ofNat 16 (rProg e.bytes), gen := gen, valid := false, loading := true, img := img }
    Runs s st.toNat 0x7001 e → s.mem.err = [] → e.gen = none → imgOk img (fieldAt e.bytes 0x48 0 10) = true →
    bankBusy (tileOf s n) b = false →
    ∃ t : State, exec (.loadProgramDirect st .run) s = .next t
      ∧ cmdOf t st.toNat e.seq = some { e with ran := true, gen := some gen, aux := gen }
      ∧ (if b then tileOf t n = { tileOf s n with imB := k } else tileOf t n = { tileOf s n with imA := k })
      ∧ SameTilesBut n s t ∧ t.mem = s.mem ∧ SameStreamsBut st.toNat s t ∧ SameOuter s t)

/-- R327, R478: a running COMMIT closes the step record it names, as that stood at the command's start. A plan divisor of 0 or a nonfinite
count skips the step; otherwise the step counts. The record's nonfinite count and its agreed flag are cleared and its divisor is set again
from the planned one; no byte outside the record changes. -/
def Obligations.CommitClosesTheStep : Prop :=
  ∀ (st : StreamId) (s : State) (e : Entry),
    let a := wordAt e.rx 0x40 % 2 ^ 44
    let r := parseStep (recAt s e a)
    Runs s st.toNat 0x3104 e → s.mem.err = [] → addrLost s a = false →
    ∃ (t : State) (e' : Entry), exec (.commit st .run) s = .next t ∧ cmdOf t st.toNat e.seq = some e' ∧ e'.ran = true ∧ SameBytesBut a 128 s t
      ∧ SameStreamsBut st.toNat s t ∧ SameOuter s t
      ∧ let r' := parseStep (rd t.mem a 128)
        r'.attempts = (r.attempts + 1) % 2 ^ 64 ∧ r'.nonfinite = 0 ∧ r'.agreed = false ∧ r'.d = dropD s a r.dPlan % 2 ^ 32
          ∧ (if r.d = 0 ∨ r.nonfinite ≠ 0
             then r'.step = r.step ∧ r'.skipped = (r.skipped + 1) % 2 ^ 64 ∧ r'.lastSkip = true
             else r'.step = (r.step + 1) % 2 ^ 64 ∧ r'.skipped = r.skipped ∧ r'.lastSkip = false)

/-- R334, R335: running INIT_STEP and INIT_TSCALE write the 128 bytes of a new record where they are told, and nothing else; a running SCAN
counts the elements of its operand that are not finite into the step record and into aux. -/
def Obligations.ScaleRowsRun : Prop :=
  (∀ (st : StreamId) (s : State) (e : Entry),
    let a := wordAt e.rx 0x40 % 2 ^ 44
    Runs s st.toNat 0x3101 e → s.mem.err = [] → addrLost s a = false →
    ∃ (t : State) (e' : Entry), exec (.initStep st .run) s = .next t ∧ cmdOf t st.toNat e.seq = some e' ∧ e'.ran = true ∧ e'.aux = 0
      ∧ rd t.mem a 128 = stepBytes (initStep e.rx (dropD s a)) ∧ SameBytesBut a 128 s t ∧ SameStreamsBut st.toNat s t ∧ SameOuter s t)
  ∧ (∀ (st : StreamId) (s : State) (e : Entry),
    let a := wordAt e.rx 0x40 % 2 ^ 44
    let ei := sgn 8 (fieldAt e.rx 0x48 0 8)
    Runs s st.toNat 0x3105 e → s.mem.err = [] → addrLost s a = false →
    ∃ (t : State) (e' : Entry), exec (.initTscale st .run) s = .next t ∧ cmdOf t st.toNat e.seq = some e' ∧ e'.ran = true ∧ e'.aux = 0
      ∧ rd t.mem a 128 = scaleBytes { h := fieldAt e.rx 0x48 8 4, eInit := ei, eLast := ei }
      ∧ SameBytesBut a 128 s t ∧ SameStreamsBut st.toNat s t ∧ SameOuter s t)
  ∧ (∀ (st : StreamId) (s : State) (e : Entry),
    let a := wordAt e.rx 0x40 % 2 ^ 44
    let d := parseDesc e.rx 0x80
    let n := ((List.range d.total).filter fun i => !(elVal d.fmt (readEl s.mem d (tupleOf d.counts i))).isFin).length
    let r := parseStep (recAt s e a)
    Runs s st.toNat 0x3102 e → s.mem.err = [] → addrLost s a = false → unitsReady s d = true →
    ∃ (t : State) (e' : Entry), exec (.scan st .run) s = .next t ∧ cmdOf t st.toNat e.seq = some e' ∧ e'.ran = true
      ∧ e'.aux = BitVec.ofNat 32 (sat 0xFFFFFFFF n) ∧ (parseStep (rd t.mem a 128)).nonfinite = (r.nonfinite + n) % 2 ^ 64
      ∧ SameBytesBut a 128 s t ∧ SameStreamsBut st.toNat s t ∧ SameOuter s t)

/-- R317, R322, R325, R337: a running OPT_UPDATE whose step record, as it stood at the start, holds a nonfinite count or a zero divisor
writes nothing, reports 1 in aux and counts as skipped. One that goes on computes the values of its next chunk and stages them, memory
unchanged; it writes a staged chunk from its slot and records it as done; and once every chunk is done it ends. R413, R427: a lane of a
unit whose residue check fails is an event and changes no result; with a lasting verdict the unit has one lane less, a spare while there is
one. A running QUANT ends, changing only memory, its own stream and the counters of the update units and of traffic. It rests on the
readings of log entries 34, 104, 116 and 127. -/
def Obligations.OptimizerAndQuantRun : Prop :=
  (∀ (st : StreamId) (s : State) (e : Entry),
    let sa := wordAt e.rx 0x1E0 % 2 ^ 44
    let r := parseStep (recAt s e sa)
    Runs s st.toNat 0x3000 e → sa ≠ 0 → (r.nonfinite ≠ 0 ∨ r.d = 0) →
    ∃ t : State, exec (.optUpdate st .run) s = .next t ∧ cmdOf t st.toNat e.seq = some { e with ran := true, aux := 1 } ∧ t.mem = s.mem
      ∧ t.hbm.optSkip = sat 0xFFFFFFFF (s.hbm.optSkip + 1) ∧ t.hbm.units = s.hbm.units ∧ SameStreamsBut st.toNat s t ∧ SameOuter s t)
  ∧ (∀ (st : StreamId) (s : State) (e : Entry),
    let sa := wordAt e.rx 0x1E0 % 2 ^ 44
    let r := parseStep (recAt s e sa)
    let o := optPar e.rx (if sa = 0 then none else some r)
    let w := parseDesc e.rx 0x40
    Runs s st.toNat 0x3000 e → s.mem.err = [] → (sa = 0 ∨ (r.nonfinite = 0 ∧ r.d ≠ 0)) →
    ∃ (t : State) (e' : Entry), exec (.optUpdate st .run) s = .next t ∧ cmdOf t st.toNat e.seq = some e' ∧ e'.status = e.status
      ∧ t.hbm.optSkip = s.hbm.optSkip ∧ t.lnk = s.lnk ∧ t.ras = s.ras ∧ t.til = s.til ∧ SameStreamsBut st.toNat s t ∧ SameOuter s t
      ∧ (∀ ch, e.chunk = some ch →
          let l := wholeLines e.rx (e.opt.map (·.1) ++ ch.vals.map (·.1)) (e.late ++ ch.wr)
          e' = { e with chunk := none, late := l.2, chunks := e.chunks ++ [(ch.unit, ch.num)], opt := e.opt ++ ch.vals,
                        nrep := addRep e.nrep (repOf ch.rep) }
            ∧ SameBytesOutside l.1 s t ∧ (tget t.hbm.units ch.unit {}).staged = false
            ∧ (ch.vals ≠ [] → (tget t.hbm.units ch.unit {}).elems = ((tget s.hbm.units ch.unit {}).elems + ch.vals.length) % 2 ^ 64))
      ∧ (∀ k c, e.chunk = none → nextChunk s e = some (k, c) →
          t.mem = s.mem ∧ (tget t.hbm.units k {}).staged = true
            ∧ ∃ ch, e' = { e with chunk := some ch } ∧ ch.unit = k ∧ ch.num = c ∧ ch.vals.map Prod.fst = chunkEls s e.rx k c
              ∧ ch.wr = levelWrites s.mem e.rx ((chunkEls s e.rx k c).flatMap fun i => (optElem s.mem e.rx o (parseDesc e.rx) (tupleOf w.counts i)).1))
      ∧ (e.chunk = none → chunksLeft s e = [] → (bit (leNat (slice e.rx 0x1DC 4)) 2 = false ∨ unitsReady s w = true) → e'.ran = true)
      ∧ (e.chunk = none → chunksLeft s e ≠ [] → nextChunk s e = none → t = s))
  ∧ (∀ (st : StreamId) (k : Fin 8) (s : State) (e : Entry),
    let u := tget s.hbm.units k.val {}
    Runs s st.toNat 0x3000 e → unitComputes s e k.val = true →
    (∃ t : State, exec (.optUpdate st (.laneFault k false)) s = .next t ∧ LastEvent t 8 1 1 k.val ∧ t.hbm = s.hbm ∧ SameWork s t ∧ t.flash = s.flash)
      ∧ ∃ t : State, exec (.optUpdate st (.laneFault k true)) s = .next t ∧ NewEvent s t 8 2 (if 64 < u.lanes then 10 else 0) k.val
          ∧ (LastEvent t 8 5 0 k.val ∨ LastEvent t 8 6 0 k.val)
          ∧ tget t.hbm.units k.val {} = { u with lanes := u.lanes - 1, up := 2 ≤ u.lanes } ∧ SameWork s t)
  ∧ (∀ (st : StreamId) (s : State) (e : Entry), Runs s st.toNat 0x3106 e → s.mem.err = [] →
    unitsReady s (parseDesc e.rx 0x80) = true → fmtOf (parseDesc e.rx 0xC0).fmt ≠ none →
    ∃ (t : State) (e' : Entry), exec (.quant st .run) s = .next t ∧ cmdOf t st.toNat e.seq = some e' ∧ e'.ran = true ∧ e'.status = e.status
      ∧ t.lnk = s.lnk ∧ t.ras = s.ras ∧ t.til = s.til ∧ SameStreamsBut st.toNat s t ∧ SameOuter s t)

/-- R436, R438: a running DIGEST COMPUTE or COMPARE writes the 32-byte digest record; COMPARE ends with 0x0702 exactly where the first 24
bytes differ from the expected record, and the stream's last digest status is that status. It rests on the readings of log entry 89. -/
def Obligations.DigestRowsRun : Prop :=
  ∀ k ∈ [(0x5201, Instr.digestCompute, false), (0x5202, Instr.digestCompare, true)], ∀ (st : StreamId) (s : State) (e : Entry),
    let d := parseDesc e.rx 0x40
    let rec_ := digestRec s.mem d (wordAt e.rx 0x88)
    let a := wordAt e.rx 0x90 % 2 ^ 44
    let f : Status := if k.2.2 && rec_.take 24 ≠ rd s.mem (wordAt e.rx 0x98 % 2 ^ 44) 24 then 0x0702 else 0
    Runs s st.toNat k.1 e → s.mem.err = [] → addrLost s a = false → unitsReady s d = true → s.ras.events.length ≤ 4096 →
    ∃ t : State, exec (k.2.1 st .run) s = .next t ∧ cmdOf t st.toNat e.seq = some { e with ran := true, status := f }
      ∧ (strmOf t st.toNat).lastDigest = f ∧ rd t.mem a 32 = rec_ ∧ SameBytesBut a 32 s t
      ∧ t.ras.events.length = min 4096 (s.ras.events.length + (if f = 0 then 0 else 1)) ∧ SameStreamsBut st.toNat s t ∧ t.pwr = s.pwr
      ∧ t.cfg = s.cfg

/-- R361, R382: a running collective whose group is not valid ends with 0x0604; one of a valid group takes the group's next number and its
gap since the last one, and begins. It rests on the readings of log entries 83 and 84. -/
def Obligations.CollectivesBegin : Prop :=
  (∀ k ∈ [(0x2000, Instr.allreduce), (0x2100, Instr.reduceScatter), (0x2200, Instr.allgather), (0x2300, Instr.dispatch),
      (0x2400, Instr.combine), (0x3103, Instr.agree)], ∀ (st : StreamId) (s : State) (e : Entry),
    Runs s st.toNat k.1 e → s.mem.err = [] → rOpc e.rx ≠ 0x52 → collOf s st.toNat e.seq = none → (groupOf s (recGroup e.rx)).valid = false →
    ∃ t : State, exec (k.2 st .run) s = .next t ∧ cmdOf t st.toNat e.seq = some (e.finish 0x0604) ∧ t.lnk = (freeBook s e.rx).lnk ∧ t.mem = s.mem
      ∧ SameStreamsBut st.toNat s t ∧ SameOuter s t)
  ∧ (∀ k ∈ [(0x2000, Instr.allreduce), (0x2100, Instr.reduceScatter), (0x2200, Instr.allgather), (0x2300, Instr.dispatch),
      (0x2400, Instr.combine), (0x3103, Instr.agree), (0x5203, Instr.digestGroup)],
    ∀ (st : StreamId) (s : State) (e : Entry) (last : Nat),
    let i := recGroup e.rx
    let g := groupOf s i
    let a := parseDesc e.rx 0x40
    let d := wordAt e.rx 0x90 % 2 ^ 44
    let s0 := if rOpc e.rx = 0x24 ∨ rOpc e.rx = 0x52 ∨ rOpc e.rx = 0x31 then s
      else tallyBits s 3 false ((List.range a.total).map fun i => (a.bitAddr (tupleOf a.counts i), a.width, 0))
    let s1 := if rOpc e.rx = 0x52 then countElems (store (tally s 2 true d 32) d (digestRec s.mem a (wordAt e.rx 0x88))) a else s0
    let gap := sat 0xFFFFFFFF (s.clock - last)
    let c : Coll := { st := st.toNat, seq := e.seq, opc := BitVec.ofNat 8 (rOpc e.rx), group := i, cseq := g.cseq, startUs := s.clock, gap := gap,
                      slowRank := g.rank, slowGap := gap }
    Runs s st.toNat k.1 e → s.mem.err = [] → (rOpc e.rx = 0x52 → unitsReady s a = true) → collOf s st.toNat e.seq = none → g.valid = true →
    g.lastEnd = some last →
    exec (k.2 st .run) s = .next (beginColl (modGroup s1 i fun g => { g with cseq := g.cseq + 1 }) e c))

/-- R389, R390, R398, R403: TRACE and SEAL end with 0x0801 where the security engine cannot sign. A running TRACE that can sign, none of
whose jobs has run and for whose records the queue has room, queues the record of each of its entries in range, counts the others in aux,
and ends. A running SEAL seals what is queued, and ends once every record queued before it is in the log. R402: at the interval what is
unsealed is sealed. R399: the next record of the first sealed batch, and after the last one its seal, is written to the log, in host memory
or in the device's; the seal's write fires the log's vector where that is enabled. It rests on the readings of log entries 89 and 125. -/
def Obligations.EvidenceRowsRun : Prop :=
  (∀ k ∈ [(0x6000, Instr.trace), (0x6100, Instr.seal)], ∀ (st : StreamId) (s : State) (e : Entry),
    Runs s st.toNat k.1 e → signOk s = false →
    ∃ t : State, exec (k.2 st .run) s = .next t ∧ cmdOf t st.toNat e.seq = some (e.finish 0x0801) ∧ t.evd = s.evd ∧ t.mem = s.mem
      ∧ SameStreamsBut st.toNat s t ∧ SameOuter s t)
  ∧ (∀ (st : StreamId) (s : State) (e : Entry) (p : Plan),
    let n := fieldAt e.rx 0x208 0 32
    let v : Env := { traceEnv s.mem e.rx with anchor := BitVec.ofInt 12 p.anchor }
    let m := ((List.range n).filter fun i => selIn v (selEntry s.mem e.rx i)).length
    Runs s st.toNat 0x6000 e → s.mem.err = [] → signOk s = true → e.plan = some p → usable s ≠ 0 → e.blocks = [] →
    stagedBlks s st.toNat e.seq = [] → e.drained = [] → e.work = [] → e.staged = [] → e.aux = 0 → (∀ j, isHeld s st.toNat e.seq j = false) →
    s.evd.queue.length + n ≤ 8192 →
    ∃ (t : State) (e' : Entry), exec (.trace st .run) s = .next t ∧ cmdOf t st.toNat e.seq = some e' ∧ e'.ran = true ∧ e'.status = e.status
      ∧ e'.aux = BitVec.ofNat 32 (n - m) ∧ t.evd.serial = s.evd.serial + m ∧ t.evd.queue.length = s.evd.queue.length + m
      ∧ s.evd.queue <+: t.evd.queue ∧ t.mem = s.mem ∧ SameStreamsBut st.toNat s t ∧ SameOuter s t)
  ∧ (∀ (st : StreamId) (s : State) (e : Entry),
    Runs s st.toNat 0x6100 e → signOk s = true → e.log = [] → s.evd.queue = [] → s.evd.unsealed = 0 →
    let w := s.evd.sserial - s.evd.sealed.length
    ∃ t : State, exec (.seal st .run) s = .next t
      ∧ cmdOf t st.toNat e.seq = some { e with ran := true, log := [], aux := if w = 0 then 0xFFFFFFFF else BitVec.ofNat 32 (w - 1) }
      ∧ t.evd = s.evd ∧ t.mem = s.mem ∧ SameStreamsBut st.toNat s t ∧ SameOuter s t)
  ∧ (∀ (st : StreamId) (s : State) (e : Entry),
    let b := makeSeal s ((s.evd.queue.drop (s.evd.queue.length - s.evd.unsealed)).take s.evd.unsealed)
    Runs s st.toNat 0x6100 e → signOk s = true → e.log = [] → (∃ r ∈ s.evd.queue, wordAt r 8 < s.evd.serial) → s.evd.unsealed ≠ 0 →
    s.evd.unsealed ≤ 4096 →
    ∃ t : State, exec (.seal st .run) s = .next t ∧ cmdOf t st.toNat e.seq = some { e with log := [(s.evd.serial, [])] }
      ∧ t.evd.sealed = s.evd.sealed ++ [(s.evd.unsealed, b)] ∧ t.evd.unsealed = 0 ∧ t.evd.queue = s.evd.queue ∧ t.mem = s.mem
      ∧ SameStreamsBut st.toNat s t ∧ SameOuter s t)
  ∧ (∀ (st : StreamId) (s : State) (e : Entry) (x : Nat × List Byte) (l : List (Nat × List Byte)),
    Runs s st.toNat 0x6100 e → signOk s = true → e.log = x :: l → (∀ r ∈ s.evd.queue, x.1 ≤ wordAt r 8) →
    let w := s.evd.sserial - s.evd.sealed.length
    ∃ t : State, exec (.seal st .run) s = .next t
      ∧ cmdOf t st.toNat e.seq = some { e with ran := true, log := [], aux := if w = 0 then 0xFFFFFFFF else BitVec.ofNat 32 (w - 1) }
      ∧ t.evd = s.evd ∧ t.mem = s.mem ∧ SameStreamsBut st.toNat s t ∧ SameOuter s t)
  ∧ (∀ s : State, s.pwr.phase = .on → consuming s = true → signOk s = true → s.evd.unsealed ≠ 0 →
    let n := min 4096 s.evd.unsealed
    let b := makeSeal s ((s.evd.queue.drop (s.evd.queue.length - s.evd.unsealed)).take n)
    ∃ t : State, exec .sealInterval s = .next t ∧ t.evd.sealed = s.evd.sealed ++ [(n, b)] ∧ t.evd.unsealed = s.evd.unsealed - n
      ∧ t.evd.sserial = s.evd.sserial + 1 ∧ t.evd.prev = sha384 (b.take 256) ∧ t.evd.queue = s.evd.queue ∧ SameWork s t ∧ SameOuter s t)
  ∧ (∀ (s : State) (n : Nat) (sl : List Byte) (r : List (Nat × List Byte)),
    let v := s.evd
    let a := v.base.toNat + 1024 * (v.tail.toNat % 2 ^ bits v.cfg.toNat 0 5)
    let d := if v.logPos < n then v.queue.getD v.logPos [] else sl
    s.pwr.phase = .on → consuming s = true → v.sealed = (n, sl) :: r → logRoom s = true → s.mem.err = [] →
    ∃ t : State, exec .evidenceLogWrite s = .next t ∧ t.evd.tail = v.tail + 1 ∧ t.cmd = s.cmd ∧ t.til = s.til ∧ t.lnk = s.lnk ∧ t.cfg = s.cfg
      ∧ (if bit v.cfg.toNat 5
         then t.out.host = s.out.host ∧ SameBytesBut a d.length s t ∧ (addrLost s a = false → rd t.mem a d.length = d)
         else t.out.host = s.out.host ++ [(a, d)] ∧ t.mem = s.mem)
      ∧ (if n ≤ v.logPos ∧ bit v.cfg.toNat 7 = true then Fired (bits v.cfg.toNat 8 11) s t else t.out.msi = s.out.msi ∧ t.hif = s.hif)
      ∧ (if v.logPos < n then t.evd.logPos = v.logPos + 1 ∧ t.evd.queue = v.queue ∧ t.evd.sealed = v.sealed
         else t.evd.logPos = 0 ∧ t.evd.queue = v.queue.drop n ∧ t.evd.sealed = r))

/-- R467: a SNAP_BEGIN or SNAP_END of a stream that is bound to no job in force takes no snapshot and ends with 0xFFFFFFFF in aux. R468: a
SNAP_BEGIN of a bound stream takes the next serial, and where its gate asks for a clean digest and the last one was not, it ends with
0x0704 and that serial, and where the gate passes it ends with that serial and its entry waits for the snapshot. R471: a SNAP_END after a
snapshot that this member holds ends with its serial. It rests on the readings of log entries 28 and 87. -/
def Obligations.SnapshotRowsRun : Prop :=
  (∀ k ∈ [(0x5000, Instr.snapBegin), (0x5100, Instr.snapEnd)], ∀ (st : StreamId) (s : State) (e : Entry),
    Runs s st.toNat k.1 e → bound s st.toNat = false →
    ∃ t : State, exec (k.2 st .run) s = .next t ∧ cmdOf t st.toNat e.seq = some { e with ran := true, status := 0, aux := 0xFFFFFFFF, snap := none }
      ∧ t.job = s.job ∧ t.mem = s.mem ∧ t.lnk = s.lnk ∧ SameStreamsBut st.toNat s t ∧ SameOuter s t)
  ∧ (∀ (st : StreamId) (s : State) (e : Entry),
    Runs s st.toNat 0x5000 e → bound s st.toNat = true → bit (wordAt e.bytes 0x40) 0 = true → (strmOf s st.toNat).lastDigest ≠ 0 →
    ∃ (t : State) (e' : Entry), exec (.snapBegin st .run) s = .next t ∧ cmdOf t st.toNat e.seq = some e' ∧ e'.ran = true ∧ e'.status = 0x0704
      ∧ e'.aux = BitVec.ofNat 32 (s.job.serial + 1) ∧ e'.snap = none ∧ t.job.serial = s.job.serial + 1 ∧ t.job.cur = s.job.cur ∧ t.mem = s.mem)
  ∧ (∀ (st : StreamId) (s : State) (e : Entry),
    Runs s st.toNat 0x5000 e → bound s st.toNat = true → (bit (wordAt e.bytes 0x40) 0 = false ∨ (strmOf s st.toNat).lastDigest = 0) →
    (∀ m ∈ s.job.mans, m.1 ≠ s.job.serial + 1) → e.st = .running →
    (∀ j, s.cfg.conf.job = some j → ∀ p ∈ livePages s j, firstBad s.mem (pageBase j p) page = none) →
    ∃ (t : State) (e' : Entry), exec (.snapBegin st .run) s = .next t ∧ cmdOf t st.toNat e.seq = some e' ∧ e'.ran = true ∧ e'.status = 0
      ∧ e'.aux = BitVec.ofNat 32 (s.job.serial + 1) ∧ e'.snap = some (s.job.serial + 1) ∧ t.job.serial = s.job.serial + 1)
  ∧ (∀ (st : StreamId) (s : State) (e : Entry) (sn : Snap),
    Runs s st.toNat 0x5100 e → bound s st.toNat = true → s.job.cur = none → s.job.held = some sn → sn.serial = s.job.serial →
    ∃ (t : State) (e' : Entry), exec (.snapEnd st .run) s = .next t ∧ cmdOf t st.toNat e.seq = some e' ∧ e'.ran = true ∧ e'.status = 0
      ∧ e'.aux = BitVec.ofNat 32 s.job.serial ∧ e'.snap = some s.job.serial ∧ t.job.serial = s.job.serial)

/-! ### Doorbells, starts and completions -/

/-- R210, R212: a host write of pi to the doorbell of an open stream of the host's own sets pi where no more records wait than the queue
has slots; otherwise it sets ovr and leaves pi. -/
def Obligations.DoorbellSetsPi : Prop :=
  ∀ (s : State) (sec : Bool) (st : StreamId) (pi : BitVec 32),
    let x := strmOf s st.toNat
    HostWrites s sec → s.cfg.entered = true → x.opened = true → bit x.cfg.toNat 2 = false →
    ∃ t : State, exec (.dbPiWrite sec st pi) s = .next t
      ∧ strmOf t st.toNat = (if (pi - x.ci).toNat ≤ 2 ^ bits x.cfg.toNat 8 4 then { x with pi := pi } else { x with ovr := true })
      ∧ SameStreamsBut st.toNat s t ∧ t.mem = s.mem ∧ t.til = s.til ∧ t.lnk = s.lnk ∧ SameOuter s t ∧ SameService s t

/-- R223, R231, R275, R297, R309: a command whose turn has come and that no breakpoint meets starts: it runs where every range it names is
allowed, with its step record and tensor-scale entry as they stand now; it is over with 0x0501 where a range is not allowed, and stopped
where one was lost with its part. Each start on a watched stream counts down the breakpoint's count. Where a breakpoint meets it, its
stream is paused, the hit is recorded and the command stays accepted. R237, R220: the outputs that a stream's running commands hold back
are written, and then the first running command whose effects are over is done and gives up its plan and workspace. It rests on the
readings of log entries 48 and 116. -/
def Obligations.CommandsStartAndEnd : Prop :=
  (∀ (s : State) (st : StreamId) (i : Nat) (e : Entry),
    let b := s.cmd.brk
    nextStart s st.toNat = some (i, e) → brkHit b st.toNat e = false → (namedRanges e.rx).all (rngOpen s.cfg.conf) = true →
    lostNamed s e.rx = none → famOf (rOpc e.rx) ≠ some 1 → rOpc e.rx ≠ 0x60 → s.mem.err = [] →
    ∃ t : State, exec (.commandStart st) s = .next t
      ∧ (strmOf t st.toNat).journal[i]? = some { e with st := .running, recs := (startRecs e.rx).map fun a => (a, rd s.mem a 128) }
      ∧ t.cmd.brk.cnt = (if watches b st.toNat = true ∧ bit b.ctl.toNat 0 = true ∧ b.cnt ≠ 0 then b.cnt - 1 else b.cnt)
      ∧ t.cmd.brk.ctl = b.ctl ∧ t.mem = s.mem ∧ t.til = s.til ∧ SameStreamsBut st.toNat s t ∧ SameOuter s t)
  ∧ (∀ (s : State) (st : StreamId) (i a : Nat) (e : Entry),
    nextStart s st.toNat = some (i, e) → brkHit s.cmd.brk st.toNat e = false → (namedRanges e.rx).all (rngOpen s.cfg.conf) = true →
    lostNamed s e.rx = some a →
    ∃ t : State, exec (.commandStart st) s = .next t ∧ (strmOf t st.toNat).journal[i]? = some { e with st := .running, stop := some (.lost a) }
      ∧ t.mem = s.mem ∧ t.til = s.til ∧ SameStreamsBut st.toNat s t ∧ SameOuter s t)
  ∧ (∀ (s : State) (st : StreamId) (i : Nat) (e : Entry),
    nextStart s st.toNat = some (i, e) → brkHit s.cmd.brk st.toNat e = false → (namedRanges e.rx).all (rngOpen s.cfg.conf) = false →
    ∃ t : State, exec (.commandStart st) s = .next t ∧ (strmOf t st.toNat).journal[i]? = some ({ e.finish 0x0501 with st := .running })
      ∧ t.mem = s.mem ∧ t.til = s.til ∧ SameStreamsBut st.toNat s t ∧ SameOuter s t)
  ∧ (∀ (s : State) (st : StreamId) (i : Nat) (e : Entry),
    nextStart s st.toNat = some (i, e) → brkHit s.cmd.brk st.toNat e = true →
    ∃ t : State, exec (.commandStart st) s = .next t ∧ (strmOf t st.toNat).paused = true ∧ (strmOf t st.toNat).journal = (strmOf s st.toNat).journal
      ∧ t.cmd.brk.seq = e.seq ∧ t.cmd.brk.hit = BitVec.ofNat 64 (st.toNat + rTag e.bytes <<< 16 + rOpc e.bytes <<< 32)
      ∧ bit t.cmd.brk.ctl.toNat 3 = true ∧ t.mem = s.mem ∧ t.til = s.til)
  ∧ (∀ (s : State) (st : StreamId) (e : Entry),
    let u := copyOuts s st.toNat
    runnable s st.toNat = true → ((strmOf u st.toNat).journal.find? fun e => !e.refused && e.st = .running && effectsOver e) = some e →
    cmdOf u st.toNat e.seq = some e →
    ∃ t : State, exec (.commandComplete st) s = .next t
      ∧ cmdOf t st.toNat e.seq = some { e with st := .done, plan := none, work := [], blocks := [] }
      ∧ t.mem = u.mem ∧ ((strmOf s st.toNat).journal.all (fun x => x.copies = []) = true → t.mem = s.mem) ∧ t.pwr = s.pwr ∧ t.flash = s.flash ∧ SameStreamsBut st.toNat s t)

/-- R251: the first waiting command in the order of R251 plans once its workspace fits: it holds its plan and waits no longer. R245: once a
phase is drained the outputs that running commands hold back are written and the next phase is published to the counter's queue of the
command's class. R284, R285, R287, R490: a block that a running command wants is copied, by a staging engine that holds its grant, into a
slot of the staging region that is free or is taken back: the slot holds the block's bytes, and no byte outside it changes. It rests on the
readings of log entry 116. -/
def Obligations.PlansAndPhasesGoOn : Prop :=
  (∀ (s : State) (st : StreamId) (q : W64) (r : List (Nat × W64)) (e : Entry) (p : Plan),
    waitOrder s = (st.toNat, q) :: r → runnable s st.toNat = true → cmdOf s st.toNat q = some e → makePlan s e = .plan p →
    poolFits s p.wsBytes = true → e.stop = none → e.ran = false → s.mem.err = [] →
    ∃ (t : State) (e' : Entry), exec (.workspaceWaitPlan st) s = .next t ∧ cmdOf t st.toNat q = some e' ∧ e'.plan = some p ∧ (st.toNat, q) ∉ t.cmd.wsWait
      ∧ t.mem = s.mem ∧ SameStreamsBut st.toNat s t ∧ SameOuter s t)
  ∧ (∀ (s s1 : State) (st : StreamId) (e x : Entry) (p : Plan) (ph : PPhase) (r : List Entry),
    let u := copyOuts s st.toNat
    runnable s st.toNat = true → (strmOf u st.toNat).journal = e :: r → e.refused = false → e.st = .running →
    stepPhase u st.toNat e.seq = some s1 → cmdOf s1 st.toNat e.seq = some x → x.plan = some p → curPhase p = some ph →
    exec (.phasePublish st) s = .next (publish s1 st.toNat e.seq ph))
  ∧ (∀ (s s1 : State) (st : StreamId) (blk i : Nat) (e : Entry) (k : Nat × Option Nat),
    let a := rgnBase s.cfg.conf 1 * page + 0x40000 * i
    runnable s st.toNat = true → stagingGrant s blk = true →
    ((strmOf s st.toNat).journal.find? fun e => !e.refused && e.st = .running && e.stop.isNone && (wantedBlks s st.toNat e).contains blk) = some e →
    (wantedKeys s st.toNat e).find? (·.1 = blk) = some k → stageSlot s st.toNat e k = some (s1, i) → Memory.wf s.mem = true → s.mem.err = [] →
    ∃ t : State, exec (.stageBlockDone st blk) s = .next t ∧ (⟨st.toNat, e.seq, blk, i, k.2⟩ : SBlock) ∈ t.til.stage
      ∧ (∀ o, o < 0x40000 → rdB t.mem (a + o) = rdB s.mem (blk * 0x40000 + o)) ∧ SameBytesBut a 0x40000 s t
      ∧ (∀ b ∈ s.til.stage, b.slot ≠ i → b ∈ t.til.stage) ∧ t.cmd = s.cmd ∧ t.lnk = s.lnk ∧ SameOuter s t)

/-- R260, R261, R262: once its reserved jobs have moved to idle tiles of its own, the cluster whose turn it is takes a run of indices from
the first batch that has some, one for each of its tiles without a job of a command, at most ten; a Serving batch goes before a Training
one. It rests on the readings of log entry 91. -/
def Obligations.ClusterTakesARun : Prop :=
  ∀ (s : State) (c : Fin 16) (srv : Bool) (b : Batch),
    let u := moveReserves s c.val
    let idle := (takers u c.val).filter fun t => idleTile (tileOf u t)
    consuming s = true → warmDefers s = false → headBatch u = some (srv, b) → nextCluster u = some c.val → idle ≠ [] →
    ∃ t : State, exec (.tileTake c) s = .next t ∧ t.til.lastClu = c.val
      ∧ (∀ x ∈ idle.zip (b.take (min 10 idle.length)).1, (tileOf t x.1).job = some { st := b.st, seq := b.seq, idx := x.2 })
      ∧ (srv = false → ∀ y ∈ s.til.srv, y.left = 0) ∧ t.mem = s.mem ∧ t.cmd = s.cmd ∧ t.cfg = s.cfg ∧ t.lnk = s.lnk

/-- R236 to R238: the next entry of a stream is written to its ring, in host memory or in the device's: 32 bytes at the slot of the tail,
the tail and, for an accepted command, cseq advance, and for an Escorted stream DONE goes to the escort (R453; log entry 86). To a ring on
another node the 32 bytes go as a WRITE; its acknowledgement completes the entry, and a refusal of it clears en and sets wr_err (R240). It
rests on the readings of log entries 82 and 86. -/
def Obligations.CompletionEntriesAreWritten : Prop :=
  (∀ (s : State) (st : StreamId) (i : Nat) (e : Entry),
    let x := strmOf s st.toNat
    let ri := bits x.cfg.toNat 16 11
    let r := ringOf s ri
    let img := entryBytes st.toNat e (ringPhase r)
    let a := r.base.toNat + 32 * (r.tail.toNat % 2 ^ ringLog r)
    s.ser.rebuild = false → nextEntry x = some (i, e) → entryReady s st.toNat e = true → ringRoom s r = true →
    ∃ t : State, exec (.completionEntryWrite st) s = .next t ∧ SameStreamsBut st.toNat s t
      ∧ (if bit r.cfg.toNat 5 && bit r.cfg.toNat 6 then
           (ringOf t ri).tail = r.tail ∧ strmOf t st.toNat = x ∧ t.mem = s.mem ∧ t.out.host = s.out.host
             ∧ ∃ y ∈ t.lnk.sent, y.why = .ring ri st.toNat ∧ y.txn.ttype = 1 ∧ y.txn.dst.toNat = bits r.cfg.toNat 32 16
                 ∧ y.txn.a = BitVec.ofNat 64 a ∧ y.txn.body = img
         else
           (ringOf t ri).tail = r.tail + 1 ∧ (strmOf t st.toNat).cseq = (if e.refused then x.cseq else x.cseq + 1)
             ∧ (strmOf t st.toNat).journal[i]? = some { e with st := .completed, slot := r.tail }
             ∧ (escorted x = true → e.refused = false →
                 ∃ y ∈ t.lnk.sent, y.txn.ttype = 0x32 ∧ y.txn.dst = s.cfg.conf.escort ∧ y.txn.a.toNat = st.toNat ∧ y.txn.b = e.seq
                   ∧ y.txn.body.take 32 = img)
             ∧ (if bit r.cfg.toNat 5 then t.out.host = s.out.host ∧ SameBytesBut a 32 s t ∧ (addrLost s a = false → rd t.mem a 32 = img)
                else t.out.host = s.out.host ++ [(a, img)] ∧ t.mem = s.mem)))
  ∧ (∀ (s : State) (st : StreamId) (i : Nat) (e : Entry) (t : Txn) (y : Sent),
    let x := strmOf s st.toNat
    let ri := bits x.cfg.toNat 16 11
    let r := ringOf s ri
    nextEntry x = some (i, e) → answerOk s t = true → sentTo s t.src (BitVec.ofNat 32 t.a.toNat) = some y → y.why = .ring ri st.toNat →
    ∃ u : State, exec (.ack t) s = .next u ∧ SameStreamsBut st.toNat s u ∧ u.mem = s.mem ∧ u.out.host = s.out.host
      ∧ (if bits t.b.toNat 0 16 = 0 then
           (ringOf u ri).tail = r.tail + 1 ∧ (strmOf u st.toNat).cseq = (if e.refused then x.cseq else x.cseq + 1)
             ∧ (strmOf u st.toNat).journal[i]? = some { e with st := .completed, slot := r.tail }
         else strmOf u st.toNat = x ∧ (ringOf u ri).tail = r.tail ∧ bit (ringOf u ri).cfg.toNat 7 = false ∧ bit (ringOf u ri).cfg.toNat 10 = true))

/-- R239: under irq_mode 0 the ring's vector fires after every entry, under irq_mode 1 only after entries of records with irq = 1, and
under irq_mode 2 never. A vector that fires sends its message, or its pending bit is set where it cannot be sent. An entry of a ring on
another node is written once that node has acknowledged it. What leaving MAINTENANCE then reports (R508, R577), where a request for it
waited, comes after. -/
def Obligations.RingInterrupts : Prop :=
  (∀ (s : State) (st : StreamId) (i : Nat) (e : Entry),
    let x := strmOf s st.toNat
    let r := ringOf s (bits x.cfg.toNat 16 11)
    s.ser.rebuild = false → nextEntry x = some (i, e) → entryReady s st.toNat e = true → ringRoom s r = true → s.mem.err = [] →
    ∃ t : State, exec (.completionEntryWrite st) s = .next (tryLeave t) ∧ (s.cfg.maintReq ≠ 2 → tryLeave t = t)
      ∧ (if bit r.cfg.toNat 5 && bit r.cfg.toNat 6 then t.out.msi = s.out.msi ∧ t.hif.pba = s.hif.pba else FiredFor r e s t))
  ∧ (∀ (s : State) (st : StreamId) (i : Nat) (e : Entry) (t : Txn) (x : Sent),
    let ri := bits (strmOf s st.toNat).cfg.toNat 16 11
    nextEntry (strmOf s st.toNat) = some (i, e) → answerOk s t = true → sentTo s t.src (BitVec.ofNat 32 t.a.toNat) = some x →
    x.why = .ring ri st.toNat → bits t.b.toNat 0 16 = 0 →
    ∃ u : State, exec (.ack t) s = .next u ∧ FiredFor (ringOf s ri) e s u)

/-! ### Opening and closing streams -/

/-- R187, R186, R188, R528: the host opens, closes, pauses and resumes the stream it has selected: an open with counts out of range, of a
Local stream that is bound to the job, or without a place in the pool sets open_err; an opened stream has empty indices and counters. R228,
R233, R231: host writes of CMD_SYNC_ADD and CMD_SYNC_MAX update the selected object, CMD_FN_DIS takes all bits but bit 4, and a
breakpoint's resume lets the watched open streams run again. It rests on the readings of log entry 35. -/
def Obligations.StreamAndCommandRegisters : Prop :=
  (∀ (s : State) (sec : Bool),
    let n := s.selH.strm.toNat
    let x := strmOf s n
    let q := bits x.cfg.toNat 8 4
    let j := bits x.cfg.toNat 12 4
    HostWrites s sec → x.opened = false →
    ∃ t : State, exec (.streamOpen sec) s = .next t ∧ SameStreamsBut n s t ∧ t.mem = s.mem ∧ t.lnk = s.lnk ∧ SameOuter s t
      ∧ (if 4 ≤ q ∧ q ≤ 12 ∧ 4 ≤ j ∧ j ≤ 10 ∧ (bound s n = true → escorted x = true) ∧ (poolPlace s (poolBytes x)).isSome then
           (strmOf t n).opened = true ∧ some (strmOf t n).qbase = poolPlace s (poolBytes x) ∧ (strmOf t n).pi = 0 ∧ (strmOf t n).ci = 0
             ∧ (strmOf t n).nseq = 0 ∧ (strmOf t n).cseq = 0 ∧ (strmOf t n).paused = false ∧ (strmOf t n).cfg = x.cfg
         else strmOf t n = { x with openErr := true }))
  ∧ (∀ (s : State) (sec : Bool), HostWrites s sec → (strmOf s s.selH.strm.toNat).opened = true →
    exec (.streamClose sec) s = .next (modStrm s s.selH.strm.toNat fun x => { x with closing := true })
      ∧ exec (.streamPause sec) s = .next (modStrm s s.selH.strm.toNat fun x => { x with paused := true })
      ∧ exec (.streamResume sec) s = .next (modStrm s s.selH.strm.toNat fun x => { x with paused := false }))
  ∧ (∀ (s : State) (st : StreamId), (strmOf s st.toNat).opened = true → (strmOf s st.toNat).closing = true →
    (strmOf s st.toNat).journal.all (·.refused) = true → s.ser.rebuild = false →
    exec (.streamCloseEffect st) s = .next (modStrm s st.toNat fun x =>
      { x with opened := false, closing := false, paused := false, escOk := false, qbase := 0 }))
  ∧ ((∀ (s : State) (sec : Bool) (v : W64), HostWrites s sec →
    let i := s.selH.sync.toNat
    (∃ t : State, exec (.cmdSyncAdd sec v) s = .next t ∧ syncOf t i = syncOf s i + v ∧ (∀ k, k ≠ i → syncOf t k = syncOf s k) ∧ t.mem = s.mem
      ∧ (∀ k, strmOf t k = strmOf s k) ∧ SameOuter s t)
    ∧ (∃ t : State, exec (.cmdSyncMax sec v) s = .next t ∧ (syncOf t i).toNat = max (syncOf s i).toNat v.toNat
      ∧ (∀ k, k ≠ i → syncOf t k = syncOf s k) ∧ t.mem = s.mem ∧ (∀ k, strmOf t k = strmOf s k) ∧ SameOuter s t)
    ∧ (∃ t : State, exec (.cmdFnDis sec v) s = .next t ∧ t.cmd.fnDis = v.setWidth 8 &&& 0xEF ∧ t.cmd.streams = s.cmd.streams ∧ t.mem = s.mem
      ∧ SameOuter s t)
    ∧ (∃ t : State, exec (.breakpointResume sec) s = .next t
      ∧ (∀ n, strmOf t n = if watches s.cmd.brk n && (strmOf s n).opened then { strmOf s n with paused := false } else strmOf s n)
      ∧ t.mem = s.mem ∧ SameOuter s t)))

/-- R217: where the escort does not answer in time, the pending record is refused with 0x010E, its withdrawal is sent, esc_ok clears, and
no other stream changes. -/
def Obligations.EscortTimeoutRefusesThePendingRecord : Prop :=
  ∀ (s : State) (st : StreamId) (e : Entry),
    ((strmOf s st.toNat).journal.find? fun e => e.st = .pending && !e.wdWait) = some e → s.ser.rebuild = false →
    ∃ t : State, exec (.escortTimeout st) s = .next t ∧ (strmOf t st.toNat).escOk = false ∧ (st.toNat, e.seq) ∈ t.esc.wd
      ∧ { e with st := .done, refused := true, status := 0x010E, wdWait := true } ∈ (strmOf t st.toNat).journal
      ∧ (∃ y ∈ t.lnk.sent, y.why = .withdraw st.toNat e.seq ∧ y.txn.ttype = 0x31 ∧ y.txn.dst = s.cfg.conf.escort ∧ y.txn.a = BitVec.ofNat 64 st.toNat
          ∧ y.txn.b = e.seq)
      ∧ SameStreamsBut st.toNat s t ∧ t.mem = s.mem ∧ SameOuter s t

/-- R240, R259: what CMD_CRING_CFG, CMD_CRING_HT and TIL_VO_ENT do when the host's write is in order. A ring that is not enabled takes its
fields, and an enabled one its enable where nothing else changes; a head up to the tail is taken and frees the entries behind it; an entry
of the visit-order table other than 0 takes a value in range. A base, size or place out of range, or a write of other fields to an enabled
ring, sets wr_err and leaves the fields; a head beyond the tail sets wr_err and leaves the head, a head within it is taken. R259: a
visit-order value in range is taken by an entry other than 0; any other write sets wr_err. It rests on the readings of log entry 96. -/
def Obligations.RingAndVisitOrderRegisters : Prop :=
  (∀ (s : State) (sec : Bool) (v : W64),
    let ri := s.selH.cring.toNat
    let r := ringOf s ri
    let n := bits v.toNat 0 5
    HostWrites s sec → bit v.toNat 10 = false →
    bits v.toNat 8 2 ≠ 3 → bits v.toNat 11 5 = 0 → bits v.toNat 27 5 = 0 → bits v.toNat 48 16 = 0 → 6 ≤ n → n ≤ 16 → bit r.cfg.toNat 7 = false →
    (bit v.toNat 7 = true → ringPlaced s.cfg.conf r.base v = true) →
    ∃ t : State, exec (.cmdCringCfg sec v) s = .next t ∧ (ringOf t ri).cfg = setBits v 10 1 (bits r.cfg.toNat 10 1) ∧ (ringOf t ri).base = r.base
      ∧ (ringOf t ri).tail = r.tail ∧ (∀ k, k ≠ ri → ringOf t k = ringOf s k) ∧ t.mem = s.mem ∧ SameOuter s t)
  ∧ (∀ (s : State) (sec : Bool) (v : W64),
    let ri := s.selH.cring.toNat
    let r := ringOf s ri
    HostWrites s sec → bit v.toNat 10 = false → bits v.toNat 8 2 ≠ 3 → bits v.toNat 11 5 = 0 → bits v.toNat 27 5 = 0 → bits v.toNat 48 16 = 0 →
    6 ≤ bits v.toNat 0 5 → bits v.toNat 0 5 ≤ 16 → bit r.cfg.toNat 7 = true → setBits (setBits v 10 1 (bits r.cfg.toNat 10 1)) 7 1 1 = setBits r.cfg 7 1 1 →
    exec (.cmdCringCfg sec v) s = .next (modRing s ri fun r => { r with cfg := setBits r.cfg 7 1 (bits v.toNat 7 1) }))
  ∧ (∀ (s : State) (sec : Bool) (ring : BitVec 11) (h : BitVec 32),
    let r := ringOf s ring.toNat
    HostWrites s sec → (h - r.head).toNat ≤ (r.tail - r.head).toNat →
    exec (.cmdCringHt sec ring h) s = .next (freeEntries (modRing s ring.toNat fun r => { r with head := h }) ring.toNat))
  ∧ (∀ (s : State) (sec : Bool) (v : W64), HostWrites s sec → s.selH.vo.toNat ≠ 0 → voOk v.toNat = true →
    exec (.tilVoEnt sec v) s = .next { s with til := { s.til with vo := tput s.til.vo s.selH.vo.toNat v 0 } })
  ∧ (∀ (s : State) (sec : Bool) (ring : BitVec 11) (h : BitVec 32),
    let r := ringOf s ring.toNat
    HostWrites s sec →
    ∃ t : State, exec (.cmdCringHt sec ring h) s = .next t ∧ (ringOf t ring.toNat).tail = r.tail ∧ (ringOf t ring.toNat).base = r.base
      ∧ (if (r.tail - r.head).toNat < (h - r.head).toNat
         then (ringOf t ring.toNat).head = r.head ∧ bit (ringOf t ring.toNat).cfg.toNat 10 = true ∧ t.cmd.streams = s.cmd.streams
         else (ringOf t ring.toNat).head = h ∧ (ringOf t ring.toNat).cfg = r.cfg)
      ∧ (∀ k, k ≠ ring.toNat → ringOf t k = ringOf s k) ∧ t.mem = s.mem ∧ SameOuter s t)
  ∧ (∀ (s : State) (sec : Bool) (v : W64), HostWrites s sec →
    let e := s.selH.vo.toNat
    ∃ t : State, exec (.tilVoEnt sec v) s = .next t ∧ t.cmd = s.cmd ∧ t.mem = s.mem ∧ SameOuter s t
      ∧ (if e ≠ 0 ∧ voOk v.toNat = true then tget t.til.vo e 0 = v ∧ t.til.voErr = s.til.voErr ∧ (∀ k, k ≠ e → tget t.til.vo k 0 = tget s.til.vo k 0)
         else t.til.voErr = true ∧ t.til.vo = s.til.vo))

/-! ### The tile engine -/

/-- R150 to R156, R159, R160, R171, R181: a slot of an audited bundle takes its effect on its own tile and is noted as issued; memory,
every other tile, the command blocks and the outer parts stay as they were. R153, R156: a vector operation without rounding by dither
writes the one register it names: VMOV copies, every other lane-wise operation delivers its function of the lanes of its sources. It rests
on the readings of log entries 37 and 92. -/
def Obligations.SlotsTakeEffect : Prop :=
  (∀ k ∈ slotRows, ∀ (s s1 : State) (t : TileNo) (j : TJob) (e : Entry) (p : Plan) (c : JCtx) (x : Tile),
    SlotReady s s1 t.toNat k.2.1 k.2.2 j e p c x →
    ∃ u : State, exec (k.1 t) s = .next u
      ∧ tileOf u t.toNat = { doSlot c x k.2.1 (slotOf (c.bun x.bundle) k.2.1) with issued := k.2.1 :: x.issued }
      ∧ SameTilesBut t.toNat s u ∧ u.mem = s.mem ∧ u.cmd = s.cmd ∧ u.lnk = s.lnk ∧ SameOuter s u ∧ SameService s u)
  ∧ (∀ (c : JCtx) (x : Tile) (f : Nat),
    let op := bits f 0 6
    let wide := bit f 6
    let vd := bits f 7 5
    let fm := if wide then fp64 else fp32
    (∀ r, r ≠ vd → tget (doVec c x f).vreg r 0 = tget x.vreg r 0)
      ∧ (op = 0x12 → tget (doVec c x f).vreg vd 0 = tget x.vreg (bits f 12 5) 0)
      ∧ (op ≠ 0x12 → op ≠ 9 → bits f 27 3 ≠ 2 → ∀ i, i < (if wide then 32 else 64) →
          lane (doVec c x f) vd wide i
            = (vecOp op fm fm (bits f 27 3) false 0 (lane x (bits f 12 5) wide i) (lane x (bits f 17 5) wide i) (lane x (bits f 22 5) wide i)).1
                % 2 ^ fm.width))

/-- R151, R141: the C slot closes its bundle. A NOP outside loops goes to the next bundle one cycle later, an IDLE of n cycles n later
still, and a LOOP of at least one iteration opens its level with count 0; only the tile changes. It rests on the readings of log entries 37
and 92. -/
def Obligations.ControlSlotsAdvance : Prop :=
  (∀ (s s1 : State) (t : TileNo) (j : TJob) (e : Entry) (p : Plan) (c : JCtx) (x : Tile), SlotReady s s1 t.toNat .c 0 j e p c x → x.loops = [] →
    ∃ u : State, exec (.nop t .c) s = .next u ∧ tileOf u t.toNat = { x with bundle := x.bundle + 1, tcy := cyc (x.tcy + 1), audited := false, issued := [] }
      ∧ SameTilesBut t.toNat s u ∧ u.mem = s.mem ∧ u.cmd = s.cmd ∧ SameOuter s u ∧ SameService s u)
  ∧ (∀ (s s1 : State) (t : TileNo) (j : TJob) (e : Entry) (p : Plan) (c : JCtx) (x : Tile), SlotReady s s1 t.toNat .c 2 j e p c x → x.loops = [] →
    ∃ u : State, exec (.idle t) s = .next u
      ∧ tileOf u t.toNat = { x with bundle := x.bundle + 1, tcy := cyc (x.tcy + 1 + bits (slotOf (c.bun x.bundle) .c) 4 12), audited := false, issued := [] }
      ∧ SameTilesBut t.toNat s u ∧ u.mem = s.mem ∧ u.cmd = s.cmd ∧ SameOuter s u ∧ SameService s u)
  ∧ (∀ (s s1 : State) (t : TileNo) (j : TJob) (e : Entry) (p : Plan) (c : JCtx) (x : Tile), SlotReady s s1 t.toNat .c 4 j e p c x → x.loops = [] →
    let f := slotOf (c.bun x.bundle) .c
    x.bundle < bits f 6 10 → bits f 16 16 ≠ 0 →
    ∃ u : State, exec (.loop t) s = .next u
      ∧ tileOf u t.toNat = { x with loops := [(bits f 4 2, x.bundle + 1, bits f 6 10, bits f 16 16, 0)], bundle := x.bundle + 1, tcy := cyc (x.tcy + 1),
                                    audited := false, issued := [] }
      ∧ SameTilesBut t.toNat s u ∧ u.mem = s.mem ∧ u.cmd = s.cmd ∧ SameOuter s u ∧ SameService s u)

/-- R165, R157: END gives the job's results to its command and ends the job in the tile; WAITX holds the tile while a transfer that it
names is in flight; TRANSFER_COMPLETE lands a transfer of a tile that does not wait. R142, R166, R168: a freed queue unfreezes a tile that
it froze; a finished load makes its bank valid, and the banks then follow the binding of the tile's job, if it has one; a pending switch to
a valid bank with the job's program makes that bank active; nothing else changes. It rests on the readings of log entries 38, 92 and 94. -/
def Obligations.EndsTransfersAndBanks : Prop :=
  (∀ (s s1 : State) (t : TileNo) (j : TJob) (e : Entry) (p : Plan) (c : JCtx) (x : Tile), SlotReady s s1 t.toNat .c 1 j e p c x → x.bad = none →
    e.drained.contains j.idx = false → s.ser.rebuild = false →
    exec (.endProg t) s = .next (endTile (commitJob s1 j.st j.seq e j.idx (progRes c p x [])) t.toNat))
  ∧ (∀ (s s1 : State) (t : TileNo) (j : TJob) (e : Entry) (p : Plan) (c : JCtx) (x : Tile), SlotReady s s1 t.toNat .c 3 j e p c x →
    let m := bits (slotOf (c.bun x.bundle) .c) 4 16
    (x.toks.any fun y => bit m y.1 && !y.2.done) = true →
    ∃ u : State, exec (.waitx t) s = .next u ∧ tileOf u t.toNat = { x with waitMask := some (BitVec.ofNat 16 m) } ∧ SameTilesBut t.toNat s u
      ∧ u.mem = s.mem ∧ u.cmd = s.cmd ∧ SameOuter s u)
  ∧ (∀ (s : State) (t : TileNo) (tok : Fin 16) (j : TJob), (tileOf s t.toNat).job = some j → inHold s = false →
    (tileOf s t.toNat).waitMask = none → ((tileOf s t.toNat).toks.any (·.1 = tok.val)) = true → s.mem.err = [] →
    (tileOf s t.toNat).bad = none →
    ∃ u : State, exec (.transferComplete t tok) s = .next u
      ∧ tileOf u t.toNat = { landXfer (tileMem s t.toNat) (tileOf s t.toNat) tok.val with met := [] } ∧ SameTilesBut t.toNat s u
      ∧ u.mem = s.mem ∧ u.cmd = s.cmd ∧ SameOuter s u)
  ∧ (∀ (s : State) (t : TileNo), (tileOf s t.toNat).frozen = 1 →
    ∃ u : State, exec (.outboundQueueFree t) s = .next u ∧ tileOf u t.toNat = { tileOf s t.toNat with frozen := 0 } ∧ SameTilesBut t.toNat s u
      ∧ u.mem = s.mem ∧ u.cmd = s.cmd ∧ SameOuter s u)
  ∧ (∀ (s : State) (t : TileNo) (b : Bool),
    let k := if b then (tileOf s t.toNat).imB else (tileOf s t.toNat).imA
    k.loading = true →
    let y : Tile := if b then { tileOf s t.toNat with imB := { k with loading := false, valid := true } }
      else { tileOf s t.toNat with imA := { k with loading := false, valid := true } }
    ∃ u : State, exec (.imLoadDone t b) s = .next u ∧ u = bindTile (modTile s t.toNat fun _ => y) t.toNat
      ∧ ((tileOf s t.toNat).job = none → tileOf u t.toNat = y)
      ∧ SameTilesBut t.toNat s u ∧ u.mem = s.mem ∧ u.cmd = s.cmd ∧ SameOuter s u)
  ∧ (∀ (s : State) (t : TileNo),
    let x := tileOf s t.toNat
    let k := if x.actB then x.imA else x.imB
    x.pendSw = true → x.bundle = 0 → x.audited = false → x.tcy = 0 → k.valid = true →
    (∀ j y, x.job = some j → bindingOf s j = some y → holds k y = true) →
    ∃ u : State, exec (.imBankSwitch t) s = .next u ∧ tileOf u t.toNat = { x with actB := !x.actB, pendSw := false } ∧ SameTilesBut t.toNat s u
      ∧ u.mem = s.mem ∧ u.cmd = s.cmd ∧ SameOuter s u)

/-- R142, R139, R171, R418: a DRAIN whose check fails holds its job and lets nothing out: the residue check where a word's residue differs
from the one carried beside it, another check where it reports. A deviation that leaves every residue as it was passes. A full outbound
queue freezes the tile before the drain; a library job whose drain passes ends in its tile with its results drained, and a job of a TRACE
with its record formed. It rests on the readings of log entries 38 and 89. -/
def Obligations.DrainsAreChecked : Prop :=
  (∀ (s s1 : State) (t : TileNo) (j : TJob) (e : Entry) (p : Plan) (c : JCtx) (x : Tile) (f : TileFault), SlotReady s s1 t.toNat .e 1 j e p c x →
    let w := slotOf (c.bun x.bundle) .e
    (f.det = 1 → drainMism (faultAcc x w (resDev (some f))) w = true) →
    ∃ u : State, exec (.drain t (some f) false) s = .next u ∧ u.mem = s.mem ∧ u.cmd = s.cmd ∧ (tileOf u t.toNat).frozen = 2
      ∧ u.ras.held = s.ras.held ++ [{ tile := t, nb := none, job := j, det := f.det.toNat, dev := f.dev }] ∧ SameTilesBut t.toNat s u)
  ∧ (∀ (s s1 : State) (t : TileNo) (j : TJob) (e : Entry) (p : Plan) (c : JCtx) (x : Tile) (f : TileFault), SlotReady s s1 t.toNat .e 1 j e p c x →
    let w := slotOf (c.bun x.bundle) .e
    let y := faultAcc x w (resDev (some f))
    (f.det = 1 → drainMism y w = false →
      ∃ u : State, exec (.drain t (some f) false) s = .next u ∧ tileOf u t.toNat = { doSlot c y .e w with issued := .e :: x.issued }
        ∧ u.mem = s.mem ∧ u.cmd = s.cmd ∧ u.ras = s.ras ∧ SameTilesBut t.toNat s u)
    ∧ (∀ f, ∃ u : State, exec (.drain t f true) s = .next u ∧ (tileOf u t.toNat).frozen = 1 ∧ (tileOf u t.toNat).issued = x.issued
        ∧ u.mem = s.mem ∧ u.cmd = s.cmd ∧ u.ras = s.ras ∧ SameTilesBut t.toNat s u))
  ∧ (∀ (s : State) (t : TileNo) (j : TJob) (e : Entry) (p : Plan),
    (tileOf s t.toNat).job = some j → jobCmd s j = some (e, p) → isProgJob e p j.idx = false → canIssue s t.toNat = true →
    bankReady s t.toNat j = true → s.ser.rebuild = false → e.drained.contains j.idx = false →
    (rOpc e.bytes = 0x60 → exec (.drain t none false) s = .next (endTile (traceJob s j.st e p j.idx) t.toNat))
      ∧ (∀ f : TileFault, rOpc e.bytes = 0x60 → f.det = 1 → traceMism s j.st e p j.idx (resDev (some f)) = false →
          exec (.drain t (some f) false) s = .next (endTile (traceJob s j.st e p j.idx) t.toNat))
      ∧ (∀ f : TileFault, rOpc e.bytes = 0x60 → (f.det = 1 → traceMism s j.st e p j.idx (resDev (some f)) = true) →
          ∃ u : State, exec (.drain t (some f) false) s = .next u ∧ u.mem = s.mem ∧ u.cmd = s.cmd ∧ (tileOf u t.toNat).frozen = 2
          ∧ u.ras.held = s.ras.held ++ [{ tile := t, nb := none, job := j, det := f.det.toNat, dev := f.dev }] ∧ SameTilesBut t.toNat s u)
      ∧ (rOpc e.bytes ≠ 0x60 → exec (.drain t none false) s = .next (endTile (drainJob s j.st j.seq j.idx) t.toNat))
      ∧ (∀ f : TileFault, rOpc e.bytes ≠ 0x60 → s.mem.err = [] → (f.det = 1 → (libJob s j.st e p j.idx (resDev (some f))).mism = true) →
          ∃ u : State, exec (.drain t (some f) false) s = .next u ∧ u.mem = s.mem ∧ u.cmd = s.cmd ∧ (tileOf u t.toNat).frozen = 2
          ∧ u.ras.held = s.ras.held ++ [{ tile := t, nb := none, job := j, det := f.det.toNat, dev := f.dev }] ∧ SameTilesBut t.toNat s u)
      ∧ (∀ f : TileFault, rOpc e.bytes ≠ 0x60 → s.mem.err = [] → f.det = 1 → (libJob s j.st e p j.idx (resDev (some f))).mism = false →
          exec (.drain t (some f) false) s = .next (endTile (commitJob s j.st j.seq e j.idx (libJob s j.st e p j.idx (resDev (some f)))) t.toNat))
      ∧ (∀ f, ∃ u : State, exec (.drain t f true) s = .next u ∧ u.mem = s.mem ∧ u.cmd = s.cmd ∧ u.ras = s.ras ∧ (tileOf u t.toNat).frozen = 1
          ∧ SameTilesBut t.toNat s u))

/-! ### Failures of commands -/

/-- R129, R296, R297, R162, R420: a stopped command whose jobs in flight have ended is over with the status of what stopped it: 0x0300 plus
the cause of the first trapped product, or of what stopped it where the scan finds none; 0x0502, with an event, or 0x0503, with the address
in units of 4 KiB; the status of the failed audit; or 0x0701 with the tile. It rests on the readings of log entries 36, 110 and 124. -/
def Obligations.StoppedCommandsFail : Prop :=
  ∀ (s : State) (st : StreamId) (e : Entry),
    runnable s st.toNat = true → inFlight s st.toNat e.seq = false → cmdOf s st.toNat e.seq = some e →
    (∀ a, (stopped s st.toNat fun | .uncorr _ => true | .lost _ => true | _ => false) = some e → e.stop = some (.uncorr a) →
      ∃ (t : State) (e' : Entry), exec (.uncorrectableCommandFail st) s = .next t ∧ cmdOf t st.toNat e.seq = some e' ∧ e'.ran = true ∧ e'.stop = none
        ∧ e'.status = 0x0502 ∧ e'.aux = BitVec.ofNat 32 (a >>> 12) ∧ (∃ v, t.ras.events.getLast? = some v ∧ v.verdict = 0 ∧ v.action = 11)
        ∧ SameStreamsBut st.toNat s t ∧ t.lnk = (freeBook s e.rx).lnk ∧ t.pwr = s.pwr ∧ (t.cfg = s.cfg ∨ t.cfg = { s.cfg with st := .hold })
        ∧ t.flash = s.flash)
    ∧ (∀ a, (stopped s st.toNat fun | .uncorr _ => true | .lost _ => true | _ => false) = some e → e.stop = some (.lost a) →
      ∃ (t : State) (e' : Entry), exec (.uncorrectableCommandFail st) s = .next t ∧ cmdOf t st.toNat e.seq = some e' ∧ e'.ran = true ∧ e'.stop = none
        ∧ e'.status = 0x0503 ∧ e'.aux = BitVec.ofNat 32 (a >>> 12) ∧ SameStreamsBut st.toNat s t ∧ t.lnk = (freeBook s e.rx).lnk ∧ OuterOrHold s t)
    ∧ (∀ j r0 r1 r2 r3, (stopped s st.toNat fun | .sched .. => true | _ => false) = some e → e.stop = some (.sched j r0 r1 r2 r3) →
      ∃ (t : State) (e' : Entry), exec (.scheduleFaultResolve st) s = .next t ∧ cmdOf t st.toNat e.seq = some e' ∧ e'.ran = true ∧ e'.stop = none
        ∧ e'.status = BitVec.ofNat 16 r0.toNat ∧ t.til.sflt = (if bit s.til.sflt.1.toNat 63 then s.til.sflt else (r0, r1, r2, r3))
        ∧ SameStreamsBut st.toNat s t ∧ t.lnk = s.lnk ∧ OuterOrHold s t)
    ∧ (∀ x, (stopped s st.toNat fun | .trap _ => true | .unresolved _ => true | _ => false) = some e → e.stop = some (.unresolved x) →
      ∃ (t : State) (e' : Entry), exec (.trapScan st) s = .next t ∧ cmdOf t st.toNat e.seq = some e' ∧ e'.ran = true ∧ e'.stop = none ∧ e'.status = 0x0701
        ∧ e'.aux = x.setWidth 32 ∧ SameStreamsBut st.toNat s t ∧ t.lnk = s.lnk ∧ OuterOrHold s t)
    ∧ (∀ c, (stopped s st.toNat fun | .trap _ => true | .unresolved _ => true | _ => false) = some e → e.stop = some (.trap c) →
      ∃ (t : State) (e' : Entry), exec (.trapScan st) s = .next t ∧ cmdOf t st.toNat e.seq = some e' ∧ e'.ran = true ∧ e'.stop = none
        ∧ e'.status = BitVec.ofNat 16 (0x0300 + (match (trapHits s st.toNat e).head? with | some h => h.cause | none => c)) ∧ SameStreamsBut st.toNat s t ∧ t.lnk = s.lnk
        ∧ OuterOrHold s t)

/-! ### Faults, sparing and ageing -/

/-- R418, R419, R420, R421: the neighbour replay of a held job goes to the cluster's free spare, else to an idle tile of the cluster while
that has a usable one; where the named tile is not idle it waits for the first that ends its job. The first row of R419's table that
matches decides. Where S and N agree and H differs the verdict is transient, where H and S agree and N differs it is lasting, and where H,
S and N all differ the job waits for a third replay, which decides for the replay that it equals; where all three agree the verdict is
transient if S passes its check and checker faulty if it fails it and the recomputed residues match; and where the third replay equals
neither, the command stops and the cluster is withdrawn; a replay whose own tile faults is an event of its own and is made again on a tile
that has not failed it. It rests on the readings of log entries 40 and 66. -/
def Obligations.HeldJobsAreJudged : Prop :=
  (∀ (s : State) (t nb n : TileNo) (h : Held), serviceOn s = true → heldOf s t = some h → h.nb = none → freeSpare s h = some n →
    exec (.heldJobService t nb) s = .next (placeReplay s h n)
      ∧ (tileUp s t.toNat = true → exec (.heldJobService t nb) s = .next (putHeld s { h with nb := some n, svc := true })))
  ∧ (∀ (s : State) (t nb : TileNo) (h : Held), serviceOn s = true → heldOf s t = some h → h.nb = none → freeSpare s h = none →
    replayTile s h nb = true → (tileOf s nb.toNat).job = none → (nb.toNat / 16 = t.toNat / 16 ∨ replayNear s h = false) →
    exec (.heldJobService t nb) s = .next (placeReplay s h nb)
      ∧ (tileUp s t.toNat = true → exec (.heldJobService t nb) s = .next (putHeld s { h with nb := some nb, svc := true })))
  ∧ (∀ (s : State) (t nb : TileNo) (h : Held), serviceOn s = true → heldOf s t = some h → h.nb = none → freeSpare s h = none →
    (tileOf s nb.toNat).job ≠ none → exec (.heldJobService t nb) s = .next (putHeld s { h with svc := true }))
  ∧ (∀ (s : State) (t n : TileNo) (h : Held) (dS dN : List (Nat × BitVec 256)) (recomp : Bool),
    serviceOn s = true → s.ser.rebuild = false → heldOf s t = some h → h.nb = some n → h.open_ = false →
    (∀ cS, exec (.replayDecision t dS dN cS false recomp) s
        = .next (freeReplays (putHeld (raise s h.det 4 0 0 n.toNat (evtJob s h.job)) { h with nb := none, sb := none, tried := h.tried ++ [n] }) h))
      ∧ (sameDev dS dN = true → sameDev h.dev dS = false →
          exec (.replayDecision t dS dN true true recomp) s = .next (judge (drainHeld s h) t.toNat h.det 1 (evtJob s h.job)))
      ∧ (sameDev h.dev dS = true → sameDev h.dev dN = false → sameDev dS dN = false → ∀ cS,
          exec (.replayDecision t dS dN cS true recomp) s = .next (judge (drainHeld s h) t.toNat h.det 2 (evtJob s h.job)))
      ∧ (sameDev h.dev dS = false → sameDev h.dev dN = false → sameDev dS dN = false → ∀ cS,
          exec (.replayDecision t dS dN cS true recomp) s = .next (freeReplays (putHeld s { h with open_ := true, devS := dS, devN := dN }) h))
      ∧ (sameDev h.dev dS = true → sameDev h.dev dN = true → sameDev dS dN = true →
          exec (.replayDecision t dS dN true true recomp) s = .next (judge (drainHeld s h) t.toNat h.det 1 (evtJob s h.job))
          ∧ exec (.replayDecision t dS dN false true true) s = .next (judge (drainHeld s h) t.toNat h.det 3 (evtJob s h.job))))
  ∧ (∀ (s : State) (t t3 : TileNo) (h : Held) (d : List (Nat × BitVec 256)),
    serviceOn s = true → s.ser.rebuild = false → heldOf s t = some h → h.open_ = true → tileUp s t3.toNat = true → t3.toNat / 64 ≠ t.toNat / 64 →
    t3 ∉ h.tried →
    (sameDev d h.devN = true → sameDev d h.devS = false →
        exec (.thirdReplayDecision t t3 (some d)) s = .next (judge (drainHeld s h) (h.sb.getD t).toNat h.det 2 (evtJob s h.job)))
      ∧ (sameDev d h.devN = false → sameDev d h.devS = true →
        exec (.thirdReplayDecision t t3 (some d)) s = .next (judge (drainHeld s h) (h.nb.getD t).toNat h.det 2 (evtJob s h.job)))
      ∧ (sameDev d h.devN = false → sameDev d h.devS = false → s.mem.err = [] → ∀ e, cmdOf s h.job.st h.job.seq = some e → e.stop = none →
        ∃ (u : State) (e' : Entry), exec (.thirdReplayDecision t t3 (some d)) s = .next u ∧ LastEvent u h.det 4 11 t.toNat
          ∧ (∀ x ∈ u.ras.held, ¬(x.tile = h.tile ∧ x.job = h.job)) ∧ cmdOf u h.job.st h.job.seq = some e'
          ∧ (e'.stop = some (.unresolved t) ∨ (e'.status = 0x0701 ∧ e'.aux = t.setWidth 32))
          ∧ (cluOf u (t.toNat / 16)).wd = true ∧ (cluOf u (t.toNat / 16)).wdReg = true)
      ∧ exec (.thirdReplayDecision t t3 none) s
          = .next (putHeld (raise s h.det 4 0 0 t3.toNat (evtJob s h.job)) { h with tried := h.tried ++ [t3] }))

/-- R423, R424, R428, R446: a tile that passes its self-test without being retired takes jobs again; a spare whose fill and test pass takes
its place; one that fails is retired, with a spare filled in its place where there is one; each leaves its event. R445: in MAINTENANCE the
selected tile's self-test can be started, which takes it out of its cluster's active tiles, and an intermittent tile can be returned as the
spare of a cluster without one; in SERVICE both set wr_err. It rests on the readings of log entries 65 and 66. -/
def Obligations.SelfTestsAndTileControl : Prop :=
  ((∀ (s : State) (t : TileNo) (lv : Fin 8),
    let n := t.toNat
    let k := cluOf s (n / 16)
    firmwareOn s = true → (rasOf s n).st = 3 → bit k.retired.toNat (n % 16) = false → k.spare.toNat ≠ n % 16 → k.wd = false →
    ∃ u : State, exec (.tileSelftestDone t true lv) s = .next u ∧ (rasOf u n).st = 0 ∧ (cluOf u (n / 16)).active = k.active ||| slotBit n
      ∧ LastEvent u 0 6 0 n ∧ u.mem = s.mem ∧ u.cmd = s.cmd ∧ u.til = s.til ∧ u.pwr = s.pwr)
  ∧ (∀ (s : State) (t : TileNo) (lv : Fin 8),
    let n := t.toNat
    let k := cluOf s (n / 16)
    firmwareOn s = true → (rasOf s n).st = 3 → bit k.retired.toNat (n % 16) = false → k.spare.toNat ≠ n % 16 → k.wd = false →
    ∃ u : State, exec (.tileSelftestDone t false lv) s = .next u ∧ (rasOf u n).st = 4
      ∧ (cluOf u (n / 16)).active = k.active &&& ~~~(slotBit n) ∧ (cluOf u (n / 16)).retired = k.retired ||| slotBit n
      ∧ (hasSpare s n = true → (cluOf u (n / 16)).filling = true ∧ (rasOf u (16 * (n / 16) + k.spare.toNat)).st = 2)
      ∧ LastEvent u 0 5 0 n ∧ u.mem = s.mem ∧ u.cmd = s.cmd ∧ u.til = s.til ∧ u.pwr = s.pwr)
  ∧ (∀ (s : State) (c : Fin 16),
    let k := cluOf s c.val
    let n := 16 * c.val + k.spare.toNat
    firmwareOn s = true → k.filling = true → k.spare ≠ 15 →
    ∃ u : State, exec (.spareFillDone c true) s = .next u ∧ (rasOf u n).st = 0 ∧ (cluOf u c.val).active = k.active ||| slotBit n
      ∧ (cluOf u c.val).spare = 15 ∧ (cluOf u c.val).filling = false ∧ LastEvent u 0 6 2 n ∧ SameTilesBut n s u ∧ u.mem = s.mem
      ∧ u.cmd = s.cmd)
  ∧ (∀ (s : State) (c : Fin 16),
    let k := cluOf s c.val
    let n := 16 * c.val + k.spare.toNat
    firmwareOn s = true → k.filling = true → k.spare ≠ 15 →
    ∃ u : State, exec (.spareFillDone c false) s = .next u ∧ (rasOf u n).st = 4 ∧ (cluOf u c.val).retired = k.retired ||| slotBit n
      ∧ (cluOf u c.val).spare = 15 ∧ (cluOf u c.val).filling = false ∧ LastEvent u 0 5 3 n ∧ u.til = s.til ∧ u.mem = s.mem ∧ u.cmd = s.cmd))
  ∧ (∀ (s : State) (sec : Bool),
    let n := s.selH.rtile.toNat
    let k := cluOf s (n / 16)
    HostWrites s sec →
    (s.cfg.st ≠ .maintenance →
      (∃ t : State, exec (.tileSelftestRun sec) s = .next t ∧ rasOf t n = { rasOf s n with wrErr := true } ∧ t.ras.clus = s.ras.clus ∧ t.cmd = s.cmd)
        ∧ ∃ t : State, exec (.returnAsSpare sec) s = .next t ∧ rasOf t n = { rasOf s n with wrErr := true } ∧ t.ras.clus = s.ras.clus ∧ t.cmd = s.cmd)
    ∧ (s.cfg.st = .maintenance → (rasOf s n).st ≠ 2 → (rasOf s n).st ≠ 3 →
      ∃ t : State, exec (.tileSelftestRun sec) s = .next t ∧ (rasOf t n).st = 3 ∧ (cluOf t (n / 16)).active = k.active &&& ~~~(slotBit n)
        ∧ t.cmd = s.cmd ∧ t.mem = s.mem)
    ∧ (s.cfg.st = .maintenance → (rasOf s n).st = 5 → k.spare = 15 →
      ∃ t : State, exec (.returnAsSpare sec) s = .next t ∧ (rasOf t n).st = 1 ∧ (cluOf t (n / 16)).spare = BitVec.ofNat 4 (n % 16)
        ∧ (cluOf t (n / 16)).retired = k.retired &&& ~~~(slotBit n) ∧ t.cmd = s.cmd ∧ t.mem = s.mem))

/-- R433, R434, R447: a shadowed job whose copies agree counts as compared and is drained; one whose copies differ counts as a mismatch
too, and is drained where the third copy agrees with one of them; where no two agree the command stops, with an event. It rests on the
readings of log entries 91 and 129. -/
def Obligations.ShadowCopiesAreCompared : Prop :=
  ∀ (s : State) (st : StreamId) (job : Nat) (prim shad third again : List (Nat × Byte)) (e : Entry) (p : Plan),
    runnable s st.toNat = true →
    ((strmOf s st.toNat).journal.find? fun e => !e.refused && e.st = .running && e.shadowed.contains job) = some e →
    cmdOf s st.toNat e.seq = some e → e.plan = some p →
    let r := jobAgain s st.toNat e p job
    let d := delivered s e job r
    let dp := copyDigest (flipBytes d.raw prim)
    let ds := copyDigest (flipBytes r.raw shad)
    let dt := copyDigest (flipBytes r.raw third)
    ∃ t : State, exec (.shadowCompare st job prim shad third again) s = .next t ∧ t.ras.shdJobs = sat 0xFFFFFFFF (s.ras.shdJobs + 1)
      ∧ t.ras.shdMism = (if dp = ds then s.ras.shdMism else sat 0xFFFFFFFF (s.ras.shdMism + 1))
      ∧ (dp = ds → ∃ e', cmdOf t st.toNat e.seq = some e' ∧ job ∈ e'.drained ∧ job ∉ e'.shadowed)
      ∧ (dp = ds → flipBytes d.raw prim = d.raw → t.ras.events = s.ras.events ∧ SameOuter s t)
      ∧ (dp ≠ ds → dt = dp ∨ dt = ds → ∃ e', cmdOf t st.toNat e.seq = some e' ∧ job ∈ e'.drained ∧ job ∉ e'.shadowed)
      ∧ (dp ≠ ds → dt ≠ dp → dt ≠ ds → e.stop = none → s.mem.err = [] →
          ∃ (e' : Entry) (h : Nat), cmdOf t st.toNat e.seq = some e' ∧ (e'.stop.isSome = true ∨ e'.status = 0x0701) ∧ LastEvent t 0x07 4 11 h)

/-- R431: a regulator's fault freezes its cluster and is logged; a passed test of a frozen cluster lets it go on unless it is the third
within 24 h; a failed one takes the cluster out of service. It rests on the readings of log entry 41. -/
def Obligations.RegulatorFaults : Prop :=
  (∀ (s : State) (c : Fin 16), firmwareOn s = true → cluUp s c.val = true → (cluOf s c.val).ivrOk = true →
    ∃ t : State, exec (.clusterRegulatorFault c) s = .next t ∧ cluOf t c.val = { cluOf s c.val with ivrOk := false } ∧ LastEvent t 0x21 0 0 c.val
      ∧ (∀ i, i < 11 → (tileOf t (16 * c.val + i)).job = none) ∧ t.mem = s.mem ∧ t.cmd = s.cmd ∧ (s.ras.held = [] → t.pwr = s.pwr))
  ∧ (∀ (s : State) (c : Fin 16),
    let k := cluOf s c.val
    firmwareOn s = true → k.wdReg = false → k.ivrOk = false →
    (∃ t : State, exec (.regulatorSelftestDone c false) s = .next t ∧ (cluOf t c.val).up = false ∧ LastEvent t 0x21 5 4 c.val ∧ t.mem = s.mem)
      ∧ ((recent s k.trans).length < 2 →
        ∃ t : State, exec (.regulatorSelftestDone c true) s = .next t ∧ cluOf t c.val = { k with ivrOk := true, trans := recent s k.trans ++ [s.ras.sec] }
          ∧ LastEvent t 0x21 1 0 c.val ∧ t.mem = s.mem ∧ t.cmd = s.cmd ∧ t.til = s.til))

/-- R44, R50, R51, R278, R297, R413: a failed fabric link, an unlocked root PLL and a lost part are each an event; the PLL's moves the
device to HOLD, and so does the second loss of a part; a running command that names a range lost with a stack stops. Where the retention
domain is rebuilt its hold is released, and no byte changes. It rests on the readings of log entries 41, 43, 67 and 128. -/
def Obligations.PartsAreLost : Prop :=
  (∀ (s : State) (a b : Fin 6), firmwareOn s = true → a.val < b.val → b.val < 4 → bit s.ras.fab.toNat (fabIx a.val b.val) = true →
    ∃ t : State, exec (.fabricLinkFail a b) s = .next t ∧ t.ras.fab = s.ras.fab &&& ~~~(BitVec.ofNat 6 (1 <<< fabIx a.val b.val))
      ∧ NewEvent s t 0x13 2 0 a.val ∧ (LastEvent t 0x13 5 0 a.val ∨ LastEvent t 0x13 6 0 a.val) ∧ t.mem = s.mem ∧ t.cmd = s.cmd ∧ t.til = s.til)
  ∧ (∀ (s : State) (a b : Fin 6), firmwareOn s = true → a.val < b.val → 4 ≤ b.val → s.ras.fabIo.contains (a.val, b.val) = false →
    ∃ t : State, exec (.fabricLinkFail a b) s = .next t ∧ t.ras.fabIo = s.ras.fabIo ++ [(a.val, b.val)] ∧ t.ras.fab = s.ras.fab
      ∧ NewEvent s t 0x13 2 0 a.val ∧ (LastEvent t 0x13 5 0 a.val ∨ LastEvent t 0x13 6 0 a.val) ∧ t.mem = s.mem ∧ t.cmd = s.cmd ∧ t.til = s.til)
  ∧ (∀ s : State, firmwareOn s = true →
    ∃ t : State, exec .rootPllUnlock s = .next t ∧ t.cfg.st = .hold ∧ t.clk = { s.clk with lock := false } ∧ LastEvent t 0x23 2 0 0 ∧ t.mem = s.mem
      ∧ t.cmd = s.cmd ∧ t.ras.held = [])
  ∧ (∀ (s : State) (p : Part), firmwareOn s = true → partUp s p = true →
    ∃ t : State, exec (.dieLoss p) s = .next t ∧ partUp t p = false ∧ t.ras.losses = s.ras.losses + 1 ∧ (1 ≤ s.ras.losses → t.cfg.st = .hold)
      ∧ ((∀ n, p ≠ .diePair n) → ∀ q, q ≠ p → partUp t q = partUp s q))
  ∧ (∀ (s : State) (k : Fin 8), firmwareOn s = true → (stackOf s k.val).lost = false →
    ∃ t : State, exec (.dieLoss (.stack k)) s = .next t ∧ stackOf t k.val = { stackOf s k.val with lost := true } ∧ t.ras.losses = s.ras.losses + 1
      ∧ LastEvent t 0 2 0 (8 + k.val) ∧ (1 ≤ s.ras.losses → t.cfg.st = .hold) ∧ t.mem = s.mem
      ∧ (∀ n q e, cmdOf s n q = some e → e.st = .running → e.ran = false → e.stop = none → (lostNamed t e.rx).isSome = true →
          ∃ x a, cmdOf t n q = some x ∧ x.stop = some (.lost a)))
  ∧ (∀ s : State, ∃ t : State, exec .retentionRebuildDone s = .next t ∧ t.ser.rebuild = false ∧ SameBytes s t ∧ t.cmd = s.cmd ∧ t.lnk = s.lnk
      ∧ (s.mem.err = [] → t = { s with ser := { s.ser with rebuild := false } }))

/-- R47, R48, R425, R513: a stopped plane runs its self-test: a standby's stop leaves the active plane; an active plane's stop makes the
standby active where one is in service. Where the standby has stopped too, a warm reset restarts both planes, with the one that was active
unless that is retired, and with none left the device moves to HOLD. A plane that passes and stopped less than twice within 24 h is in
service again; one that fails is out of service and marked in the flash. It rests on the readings of log entries 41 and 43. -/
def Obligations.ControlPlanesStop : Prop :=
  (∀ s : State, serviceOn s = true → (planeOf s (!s.ras.actB)).st = 0 → s.cfg.handover = false →
    ∃ t : State, exec .standbyLockstepMismatch s = .next t ∧ (planeOf t (!s.ras.actB)).st = 1 ∧ t.ras.actB = s.ras.actB
      ∧ planeOf t s.ras.actB = planeOf s s.ras.actB ∧ LastEvent t 0x20 0 7 (if s.ras.actB then 4 else 5) ∧ t.mem = s.mem ∧ t.cmd = s.cmd)
  ∧ (∀ s : State, serviceOn s = true → s.cfg.handover = false → s.fwu.window = false →
    let a := s.ras.actB
    let u := stopPlane s a
    ∃ t : State, exec .activeLockstepMismatch s = .next t
      ∧ ((planeOf s (!a)).st = 0 → t.ras.actB = !a ∧ t.cfg.st = s.cfg.st ∧ (planeOf t a).st = 1
          ∧ (s.cmd.streams.all (fun x => x.2.journal.all fun e => e.log = []) = true → t.mem = s.mem))
      ∧ ((planeOf s (!a)).st ≠ 0 → wornPlane u a = false → t.ras.actB = a ∧ (planeOf t a).st = 0 ∧ t.cfg.cause = 1)
      ∧ ((planeOf s (!a)).st ≠ 0 → wornPlane u a = true → wornPlane u (!a) = false → t.ras.actB = !a ∧ (planeOf t (!a)).st = 0 ∧ t.cfg.cause = 1)
      ∧ ((planeOf s (!a)).st ≠ 0 → wornPlane u a = true → wornPlane u (!a) = true →
          t.cfg.st = .hold ∧ (planeOf t a).st = 1 ∧ t.mem = s.mem))
  ∧ (∀ s : State, firmwareOn s = true → (planeOf s (!s.ras.actB)).st = 1 → (recent s (planeOf s (!s.ras.actB)).stops).length < 2 →
    ∃ t : State, exec (.planeSelftestDone true) s = .next t ∧ (planeOf t (!s.ras.actB)).st = 0 ∧ LastEvent t 0x20 6 0 (if s.ras.actB then 4 else 5)
      ∧ t.flash = s.flash ∧ t.mem = s.mem)
  ∧ (∀ s : State, firmwareOn s = true → (planeOf s (!s.ras.actB)).st = 1 →
    ∃ t : State, exec (.planeSelftestDone false) s = .next t ∧ (planeOf t (!s.ras.actB)).st = 2 ∧ t.ras.actB = s.ras.actB
      ∧ planeOf t s.ras.actB = planeOf s s.ras.actB ∧ LastEvent t 0x20 5 0 (if s.ras.actB then 4 else 5)
      ∧ t.flash.planeRet = s.flash.planeRet ||| (if s.ras.actB then 1 else 2) ∧ t.mem = s.mem ∧ t.cmd = s.cmd)

/-- R440, R441, R442: a sample becomes its tile's newest reading, and a second of operation passes; a due re-plan of a cluster whose tiles
have slack for one step less is recorded in the flash and lowers the offset by that step at most, at once where no clock fraction changes.
The host can ask for every cluster's re-plan. It rests on the readings of log entries 68 and 71. -/
def Obligations.MarginsFollowSamples : Prop :=
  (∀ (s : State) (x : Sample), firmwareOn s = true →
    ∃ t : State, exec (.monitorSample [x]) s = .next t ∧ t.ras.sec = s.ras.sec + 1 ∧ (rasOf t x.tile.toNat).worst = x.val.toNat
      ∧ (rasOf t x.tile.toNat).mon = x.mon.toNat ∧ (s.ras.sec + 1, x.val.toNat) ∈ (rasOf t x.tile.toNat).samples ∧ t.mem = s.mem ∧ t.cmd = s.cmd
      ∧ t.pwr = s.pwr)
  ∧ (∀ (s : State) (c : Fin 16) (m : Nat),
    let k := cluOf s c.val
    let ts := (tilesOf c.val).filterMap fun t => if tileUp s t then (slackOf s t).map fun x => (t, x) else none
    serviceOn s = true → cluUp s c.val = true → replanDue s c.val = true → (ts.map Prod.snd).min? = some m → s.cfg.conf.sReq ≤ m → k.kv ≠ 0 →
    k.kf ≠ 0 → -8 ≤ k.offset → k.offset ≤ 24 → (ts.all fun x => s.cfg.conf.sReq + k.kv ≤ x.2) = true →
    s.flash.margin.length < 0x800000 / 64 →
    ∃ t : State, exec (.marginReplan c) s = .next t ∧ k.offset - 1 ≤ (cluOf t c.val).offset ∧ (cluOf t c.val).offset ≤ k.offset
      ∧ ((∀ y ∈ tilesOf c.val, (rasOf s y).next = none) → (∀ x ∈ ts, (rasOf s x.1).frac = 16) → (cluOf t c.val).offset = max (-8) (k.offset - 1))
      ∧ (cluOf t c.val).lastPlan = s.ras.sec ∧ t.flash.margin.length = s.flash.margin.length + 1 ∧ t.mem = s.mem ∧ t.cmd = s.cmd)
  ∧ (∀ (s : State) (sec : Bool), HostWrites s sec → exec (.marginReplanNow sec) s = .next (replanAll s))

/-- R299, R300, R292: a scrub read of a word without an error finds it as it is and goes on to the next place of its tier, and after the
last one a new pass begins; at a remap slot in use it reads the redirected row's word. A single wrong symbol is corrected, counted and
written back. R301, R302, R303: the first row that is due is entered in the retirement log and redirected to a free remap slot, no byte
changing; a finished repair ends that entry, takes a repaired row back from its slot, and is kept in the flash with an event. It rests on
the readings of log entries 69, 70 and 115. -/
def Obligations.ScrubAndRepair : Prop :=
  (∀ (s : State), serviceOn s = true → tget s.mem.err (scrubWord s.mem false s.ser.scrubPos) 0 = 0 →
    ∃ t : State, exec (.scrubRead false 0) s = .next t ∧ SameBytes s t ∧ t.ras = s.ras
      ∧ t.ser.scrubPos = (if s.ser.scrubPos + 1 = 0x80000000 / 32 then 0 else s.ser.scrubPos + 1)
      ∧ t.ser.passes = (s.ser.passes + (if s.ser.scrubPos + 1 = 0x80000000 / 32 then 1 else 0)) % 2 ^ 32 ∧ t.cmd = s.cmd)
  ∧ (∀ (s : State), serviceOn s = true → tget s.mem.err (scrubWord s.mem true s.hbm.scrubPos) 0 = 0 →
    ∃ t : State, exec (.scrubRead true 0) s = .next t ∧ SameBytes s t ∧ t.ras = s.ras
      ∧ t.hbm.scrubPos = (if s.hbm.scrubPos + 1 = 8 * stackBytes / 32 then 0 else s.hbm.scrubPos + 1)
      ∧ t.hbm.passes = (s.hbm.passes + (if s.hbm.scrubPos + 1 = 8 * stackBytes / 32 then 1 else 0)) % 2 ^ 32 ∧ t.cmd = s.cmd)
  ∧ (∀ (s : State) (h i v : Nat), serviceOn s = true → tget s.mem.err s.ser.scrubPos 0 = 0 → s.ser.scrubPos < 0x80000000 / 32 →
    s.mem.unplace s.ser.scrubPos = none → addrLost s (s.ser.scrubPos * 32) = false →
    tget s.mem.err (scrubWord s.mem false (s.ser.scrubPos ^^^ 1)) 0 = 0 → h < 2 → i < 36 → 0 < v → v < 16 →
    ∃ t : State, exec (.scrubRead false (BitVec.ofNat 288 (symPat false h i v))) s = .next t ∧ tget t.mem.err s.ser.scrubPos 0 = 0 ∧ SameBytes s t
      ∧ t.ser.ce = sat 0xFFFFFFFF (s.ser.ce + 1) ∧ t.ser.ue = s.ser.ue ∧ t.cmd = s.cmd)
  ∧ (∀ (s : State) (k : Fin 8) (pc : BitVec 5) (blk i : Nat),
    let x := stackOf s k.val
    serviceOn s = true → x.lost = false → (x.log.any fun e => e.pc = pc.toNat && e.kind = 3) = false →
    (dueRows x pc.toNat).head? = some (rowKeyOf pc.toNat blk) → freeSlot s k.val = some i → s.mem.err = [] →
    ∃ (t : State) (e : Retire), exec (.hbmRowRetire k pc blk) s = .next t ∧ (stackOf t k.val).log = x.log ++ [e] ∧ e.pc = pc.toNat ∧ e.blk = blk ∧ e.kind = 3
      ∧ (stackOf t k.val).used = x.used + 1 ∧ SameBytes s t
      ∧ t.mem.slots = tins s.mem.slots (rowNo k.val (rowKeyOf pc.toNat blk)) i ∧ t.cmd = s.cmd)
  ∧ (∀ (s : State) (k : Fin 8) (pc : BitVec 5) (ok : Bool) (e : Retire),
    let x := stackOf s k.val
    serviceOn s = true → x.lost = false → (x.log.find? fun e => e.kind = 3 && e.pc = pc.toNat) = some e →
    ∃ t : State, exec (.hbmPprDone ⟨k, pc⟩ ok) s = .next t ∧ { e with kind := if ok then 1 else 2 } ∈ (stackOf t k.val).log
      ∧ (stackOf t k.val).used = (if ok then x.used - 1 else x.used)
      ∧ (k.val, { e with kind := if ok then 1 else 2 }) ∈ t.flash.redirects
      ∧ t.mem.slots = (if ok then s.mem.slots.filter (fun y => y.1 ≠ rowNo k.val (rowKeyOf e.pc e.blk)) else s.mem.slots)
      ∧ LastEvent t 0x12 2 5 (k.val * 0x1000000 + e.row) ∧ SameBytes s t ∧ t.cmd = s.cmd)

/-! ### Scezer Link -/

/-- R346, R349: the data flit expected next is moved in and its number, its credit and its count advance; the last flit of a transaction
leaves its bytes in the inbox. R346, R348: the header of an ack or idle flit frees what it acknowledges and gives its credit. R346, R347: a
nak counts where it names a flit that the replay buffer holds, and the port stays up before the eighth in a row. R341: a lane-map flit
leaves its map pending. R350: a link-up flit of this plane and domain brings the port up. R343, R344: a codeword with more symbol errors
than the decoder corrects, and a flit whose CRC fails, are counted, are events of the port's lanes and take nothing in. R347: a port that
loses codeword lock trains again. R346: a port without a data flit to send acknowledges, in a codeword over its lanes. It rests on the
readings of log entries 11, 80, 111 and 124. -/
def Obligations.FlitsAreTaken : Prop :=
  ∀ (s : State) (p : Fin 8) (f : RxFlit),
    let q := portOf s p.val
    let vc := flitField f.bytes 4 2
    let fl := flitField f.bytes 0 8
    let acc := if bit fl 6 then slice f.bytes 8 624 else tget q.asm vc [] ++ slice f.bytes 8 624
    (linked s p.val = true → GoodFlit f → flitField f.bytes 8 12 = q.rxSeq →
      ∃ u : State, exec (.dataFlit p f) s = .next u
        ∧ u = { s with lnk := u.lnk, out := u.out, free := u.free, ser := { s.ser with bw := u.ser.bw } } ∧ (∀ k, k ≠ p.val → portOf u k = portOf s k)
        ∧ (portOf u p.val).rxSeq = (q.rxSeq + 1) % 4096 ∧ (portOf u p.val).freed = bump4 q.freed vc 1
        ∧ (portOf u p.val).rx = sat (2 ^ 64 - 1) (q.rx + 1) ∧ (portOf u p.val).st = 2
        ∧ u.lnk.inbox = s.lnk.inbox ++ (if bit fl 7 then [(p.val, acc.take (fieldAt acc 0 16 16))] else []))
    ∧ (linked s p.val = true → GoodFlit f →
      ∃ u : State, exec (.ackFlit p f) s = .next u ∧ exec (.idleFlit p f) s = .next u ∧ OnlyLink s u ∧ (∀ k, k ≠ p.val → portOf u k = portOf s k)
        ∧ (portOf u p.val).ack = q.ack.set (flitField f.bytes 32 2) (flitField f.bytes 34 12) ∧ (portOf u p.val).rxSeq = q.rxSeq
        ∧ (q.replay.filter fun e => 2048 ≤ (flitField f.bytes 20 12 + 4096 - e.1) % 4096) <+: (portOf u p.val).replay
        ∧ u.lnk.inbox = s.lnk.inbox)
    ∧ (linked s p.val = true → GoodFlit f → q.naks < 7 →
      ∃ u : State, exec (.nakFlit p f) s = .next u ∧ OnlyLink s u ∧ (∀ k, k ≠ p.val → portOf u k = portOf s k)
        ∧ (flitField f.bytes 20 12 = (flitField f.bytes 8 12 + 4095) % 4096 → q.waitq = [] →
            (portOf u p.val).replays = (if q.replay.any (·.1 = flitField f.bytes 8 12) then sat 0xFFFFFFFF (q.replays + 1) else q.replays))
        ∧ (portOf u p.val).st = 2
        ∧ (portOf u p.val).naks = (if q.nakSeq = flitField f.bytes 8 12 ∧ q.naks ≠ 0 then q.naks + 1 else 1) ∧ u.lnk.inbox = s.lnk.inbox)
    ∧ (∀ (map : List (Fin 9)) (gen : BitVec 4) (eff : BitVec 12), linked s p.val = true → GoodFlit f → q.pmap = none → gen ≠ q.gen →
      ∃ u : State, exec (.laneMapFlit p f map gen eff) s = .next u ∧ OnlyLink s u ∧ (∀ k, k ≠ p.val → portOf u k = portOf s k)
        ∧ (portOf u p.val).pmap = some (map.map (·.val), gen.toNat, eff.toNat) ∧ (portOf u p.val).map = q.map)
    ∧ (∀ (plane : BitVec 4) (swPort : Nat) (domain : BitVec 16) (cv : List Nat) (m : List Nat),
      s.pwr.phase = .on → q.st = 1 → q.cv = [0, 0, 0, 0] → GoodFlit f → plane.toNat = p.val → domain = s.cfg.conf.domain → upMap q.bad = some m →
      ∃ u : State, exec (.linkUpFlit p f plane swPort domain cv) s = .next u ∧ OnlyLink s u ∧ (portOf u p.val).st = 2 ∧ (portOf u p.val).map = m
        ∧ (portOf u p.val).cv = [nth cv 0, nth cv 1, nth cv 2, nth cv 3] ∧ (portOf u p.val).rxSeq = 0 ∧ (portOf u p.val).swPort = swPort)
    ∧ (linked s p.val = true → (cwBad f = true ∨ crcOk f.bytes = false) →
      ∀ c ∈ [Instr.dataFlit p f, .ackFlit p f, .nakFlit p f, .idleFlit p f],
      ∃ u : State, exec c s = .next u ∧ SameWorkButLink s u ∧ u.lnk.inbox = s.lnk.inbox ∧ LastEvent u 0x18 0 0 (16 * p.val + 15)
        ∧ (portOf u p.val).rxSeq = q.rxSeq
        ∧ (cwBad f = true → (portOf u p.val).ucw = sat 0xFFFFFFFF (q.ucw + 1) ∧ (portOf u p.val).crc = q.crc)
        ∧ (cwBad f = false → (portOf u p.val).crc = sat 0xFFFFFFFF (q.crc + 1) ∧ (portOf u p.val).ucw = q.ucw))
    ∧ (linked s p.val = true →
      ∃ u : State, exec (.codewordLockLoss p) s = .next u ∧ OnlyLink s u ∧ (portOf u p.val).st = 1
        ∧ (portOf u p.val).retrains = sat 0xFFFF (q.retrains + 1) ∧ (portOf u p.val).replay = q.replay)
    ∧ (linked s p.val = true →
      ∃ u : State, exec (.ackInterval p) s = .next u ∧ OnlyLink s u ∧ (∀ k, k ≠ p.val → portOf u k = portOf s k)
        ∧ u.out.wire = s.out.wire
            ++ [(p.val, q.codeword (mkFlit (flitHdr 2 0 false false 0 q.aseq (q.cwCnt % 4) (nth q.freed (q.cwCnt % 4))) []))])

/-- R341: a failed lane's place is given to a spare lane that works, by a map that takes effect 511 codewords after its flit's, and without
one the port goes down; a lane that carries nothing is only excluded; each is an event that names the lane; at its moment the map takes
effect, of a port up or in a retrain. R347: a finished retrain brings a linked port up again, a failed one counts, and the third in a row
takes the port down. R350: a training port sends its link-up flit again. R342, R384: the host takes the selected port out of use and back,
trains it, and makes its failed lanes usable. It rests on the readings of log entries 11, 80, 111, 124 and 128. -/
def Obligations.LanesAndPorts : Prop :=
  (∀ (s : State) (p : Fin 8),
    let q := portOf s p.val
    (∀ lane : Fin 9,
      let sp := (List.range 9).find? fun l => !q.map.contains l && bit q.laneOk.toNat l
      s.pwr.phase = .on → q.st = 2 → q.pmap = none → q.map.contains lane.val = true →
      ∃ u : State, exec (.laneFail p lane) s = .next u ∧ SameWorkButLink s u
        ∧ (portOf u p.val).bad = q.bad ||| BitVec.ofNat 9 (1 <<< lane.val)
        ∧ (∀ l, sp = some l → (portOf u p.val).st = 2 ∧ (portOf u p.val).map = q.map
            ∧ (portOf u p.val).pmap = some (q.map.map (fun x => if x = lane.val then l else x), (q.gen.toNat + 1) % 16, (q.cwCnt + 511) % 4096)
            ∧ NewEvent s u 0x18 0 6 (16 * p.val + lane.val))
        ∧ (sp = none → (portOf u p.val).st = 0 ∧ (portOf u p.val).cause = 1 ∧ LastEvent u 0x18 0 0 (16 * p.val + lane.val)))
    ∧ (∀ lane : Fin 9, s.pwr.phase = .on → (established q = false ∨ (match q.pmap with | some m => m.1 | none => q.map).contains lane.val = false) →
      ∃ u : State, exec (.laneFail p lane) s = .next u ∧ SameWorkButLink s u ∧ (∀ k, k ≠ p.val → portOf u k = portOf s k)
        ∧ portOf u p.val = { q with bad := q.bad ||| BitVec.ofNat 9 (1 <<< lane.val), laneOk := q.laneOk &&& ~~~(BitVec.ofNat 9 (1 <<< lane.val)) }
        ∧ LastEvent u 0x18 0 0 (16 * p.val + lane.val))
    ∧ (∀ m g e, s.pwr.phase = .on → established q = true → q.pmap = some (m, g, e) →
      ∃ u : State, exec (.laneMapSwitch p) s = .next u ∧ OnlyLink s u ∧ (∀ k, k ≠ p.val → portOf u k = portOf s k)
        ∧ portOf u p.val = { q with map := m, gen := BitVec.ofNat 4 g, pmap := none, spares := sat 0xFF (q.spares + 1) })
    ∧ (s.pwr.phase = .on → q.st = 1 → q.cv ≠ [0, 0, 0, 0] →
      ∃ u : State, exec (.portRetrainDone p true) s = .next u ∧ OnlyLink s u ∧ (portOf u p.val).st = 2 ∧ (portOf u p.val).fails = 0
        ∧ (portOf u p.val).cv = q.cv)
    ∧ (s.pwr.phase = .on → q.st = 1 →
      ∃ u : State, exec (.portRetrainDone p false) s = .next u ∧ OnlyLink s u
        ∧ (if q.fails < 2 then portOf u p.val = { q with fails := q.fails + 1, retrains := if q.cv = [0, 0, 0, 0] then q.retrains else sat 0xFFFF (q.retrains + 1) } else (portOf u p.val).st = 0 ∧ (portOf u p.val).cause = 2))
    ∧ (s.pwr.phase = .on → q.st = 1 →
      ∃ u : State, exec (.linkUpRetry p) s = .next u ∧ OnlyLink s u ∧ (∀ k, k ≠ p.val → portOf u k = portOf s k) ∧ (portOf u p.val).st = 1
        ∧ u.out.wire = s.out.wire ++ [(p.val, q.codeword (mkFlit (flitHdr 5 0 false false 0 q.aseq (q.cwCnt % 4) (nth q.freed (q.cwCnt % 4)))
            (Config.layout 0 [s.cfg.conf.node.toNat, s.cfg.conf.domain.toNat, p.val, 128, 512, 512, 512])))]))
  ∧ (∀ (s : State) (sec : Bool),
    let n := s.selH.port.toNat
    let q := portOf s n
    HostWrites s sec →
    (∃ u : State, exec (.portDisable sec true) s = .next u ∧ OnlyLink s u ∧ (portOf u n).st = 4 ∧ (portOf u n).cause = 5 ∧ (portOf u n).dis = true
        ∧ (portOf u n).replay = [])
      ∧ (q.dis = true → portLit s n = true →
        ∃ u : State, exec (.portDisable sec false) s = .next u ∧ OnlyLink s u ∧ (portOf u n).st = 1 ∧ (portOf u n).dis = false)
      ∧ (q.dis = false → portLit s n = true →
        ∃ u : State, exec (.portRetrain sec) s = .next u ∧ OnlyLink s u ∧ (portOf u n).st = 1 ∧ (portOf u n).retrains = sat 0xFFFF (q.retrains + 1))
      ∧ (∃ u : State, exec (.laneReset sec) s = .next u ∧ OnlyLink s u ∧ portOf u n = { q with bad := 0 } ∧ ∀ k, k ≠ n → portOf u k = portOf s k))

/-- R357, R67: a WRITE from a known peer changes exactly its bits where its range may be reached, and nothing where it may not. R354, R357:
a READ brings the bytes, or 0x0602. R226, R357: a SIGNAL updates its object. R212, R216: a PUSH of a record that passes every check is
accepted on the stream that its sender owns, and one to a stream that its sender does not own changes nothing. R355: each is answered, and
the answer is kept. It rests on the readings of log entry 81. -/
def Obligations.RemoteAccesses : Prop :=
  (∀ (s : State) (t : Txn),
    let a := t.a.toNat % 2 ^ 44
    let fb := bits t.b.toNat 0 3
    let w := bits t.b.toNat 3 16 + 1
    FreshTxn s t → t.ttype = 0x01 → s.mem.err = [] →
    ∃ u : State, exec (.write t) s = .next u ∧ u.cmd = s.cmd ∧ u.til = s.til ∧ SameOuter s u
      ∧ (remoteOpen s.cfg.conf a (cdiv (fb + w) 8) = true → Answered s u t 4 0 [] ∧ (addrLost s a = false →
          readBits u.mem (8 * a + fb) w = (leNat t.body >>> fb) % 2 ^ w ∧ SameBytesBut a (cdiv (fb + w) 8) s u))
      ∧ (remoteOpen s.cfg.conf a (cdiv (fb + w) 8) = false → Answered s u t 4 0x0602 [] ∧ OnlyLink s u))
  ∧ (∀ (s : State) (t : Txn),
    let a := t.a.toNat % 2 ^ 44
    let n := bits t.b.toNat 0 13 + 1
    FreshTxn s t → t.ttype = 0x02 → s.mem.err = [] →
    ∃ u : State, exec (.read t) s = .next u ∧ u.mem = s.mem ∧ u.cmd = s.cmd ∧ u.til = s.til ∧ SameOuter s u ∧ SameService s u
      ∧ (remoteOpen s.cfg.conf a n = true → Answered s u t 3 0 (rd s.mem a n))
      ∧ (remoteOpen s.cfg.conf a n = false → Answered s u t 3 0x0602 [] ∧ OnlyLink s u))
  ∧ (∀ (s : State) (t : Txn),
    let i := bits t.a.toNat 0 14
    FreshTxn s t → t.ttype = 0x07 →
    ∃ u : State, exec (.remoteSignal t) s = .next u ∧ Answered s u t 4 0 []
      ∧ syncOf u i = (if bit t.a.toNat 14 then (if syncOf s i < t.b then t.b else syncOf s i) else syncOf s i + t.b)
      ∧ (∀ k, k ≠ i → syncOf u k = syncOf s k) ∧ (∀ k, strmOf u k = strmOf s k) ∧ u.mem = s.mem ∧ u.til = s.til ∧ SameOuter s u)
  ∧ (∀ (s : State) (t : Txn),
    let st := bits t.a.toNat 0 16
    let i := BitVec.ofNat 32 t.b.toNat
    let r := slice t.body 0 256
    let ext := t.body.drop 256
    let x := strmOf s st
    let s1 := modStrm (heard s t) st fun x => { x with pi := i, ci := i }
    FreshTxn s t → t.ttype = 0x05 →
    ((bit x.cfg.toNat 2 = false ∨ bits x.cfg.toNat 32 16 ≠ t.src.toNat) →
      ∃ u : State, exec (.push t) s = .next u ∧ OnlyLink s u ∧ Answered s u t 6 0x0101 (natLe 8 x.nseq.toNat))
    ∧ (ready s = true → bit x.cfg.toNat 2 = true → bits x.cfg.toNat 32 16 = t.src.toNat → jUsed x < 2 ^ bits x.cfg.toNat 12 4 → hasPending x = false →
    (x.journal.any fun e => decide (e.push = some (t.src, t.eseq))) = false →
    s.esc.adopting = false → x.opened = true → escorted x = false → pushExt s.cfg.conf r ext = some ext → decideRec s1 st r (some ext) true = .accept →
    ∃ (u : State) (e : Entry), exec (.push t) s = .next u ∧ (strmOf u st).journal = x.journal ++ [e] ∧ e.seq = rSeq r ∧ e.st = .accepted ∧ e.refused = false
      ∧ e.bytes = r ∧ e.ext = ext ∧ (strmOf u st).nseq = x.nseq + 1 ∧ (strmOf u st).ci = i ∧ u.mem = s.mem ∧ u.til = s.til ∧ SameStreamsBut st s u
      ∧ Answered s u t 6 0 (natLe 8 (x.nseq + 1).toNat) ∧ SameOuter s u))

/-- R361: a transaction of a collective that its group has not yet reached is kept, one of an earlier epoch is dropped, and one of a
collective in flight is used by it. R371: an ABORT ends the collective with its status. R360, R363: the host commits a staged entry whose
list holds this node at its rank, a commit that does not sets wr_err, and an invalidated entry is no longer valid. It rests on the readings
of log entry 85. -/
def Obligations.CollectiveTransactions : Prop :=
  (∀ k ∈ [(0x20, Instr.seg), (0x21, Instr.abort), (0x22, Instr.count), (0x23, Instr.accept), (0x24, Instr.caravan), (0x25, Instr.returnRows)],
    ∀ (s : State) (t : Txn),
      let g := groupOf s (txnGroup t)
      FreshTxn s t → t.ttype = BitVec.ofNat 8 k.1 →
      ((g.valid = false ∨ g.epoch < t.a ∨ (t.a = g.epoch ∧ g.cseq ≤ t.b)) →
          ∃ u : State, exec (k.2 t) s = .next u ∧ OnlyLink s u ∧ u.lnk.kept = s.lnk.kept ++ [t] ∧ u.lnk.colls = s.lnk.colls)
        ∧ (g.valid = true → t.a < g.epoch →
          ∃ u : State, exec (k.2 t) s = .next u ∧ OnlyLink s u ∧ u.lnk.kept = s.lnk.kept ∧ u.lnk.colls = s.lnk.colls)
        ∧ (∀ c, g.valid = true → t.a = g.epoch → t.b < g.cseq → (s.lnk.colls.find? fun c => c.group = txnGroup t && c.cseq = t.b) = some c →
          ∃ u : State, exec (k.2 t) s = .next u ∧ u.mem = (useTxn (heard s t) c t).mem ∧ u.cmd = (useTxn (heard s t) c t).cmd
            ∧ u.lnk.colls = (useTxn (heard s t) c t).lnk.colls ∧ u.lnk.groups = (useTxn (heard s t) c t).lnk.groups))
  ∧ (∀ (s : State) (t : Txn) (c : Coll) (e : Entry) (rank : Nat),
    let g := groupOf s c.group
    FreshTxn s t → t.ttype = 0x21 → c.group = txnGroup t → g.valid = true → t.a = g.epoch → t.b < g.cseq →
    (s.lnk.colls.find? fun c => c.group = txnGroup t && c.cseq = t.b) = some c → cmdOf s c.st c.seq = some e →
    g.members.findIdx? (· = t.src.toNat) = some rank →
    ∃ u : State, exec (.abort t) s = .next u ∧ cmdOf u c.st c.seq = some { e.finish (BitVec.ofNat 16 (fieldAt t.body 0 0 16)) with waits := [] }
      ∧ collOf u c.st c.seq = none ∧ u.mem = s.mem ∧ SameStreamsBut c.st s u ∧ SameOuter s u)
  ∧ (∀ (s : State) (sec : Bool),
    let i := s.selH.grp.toNat
    let g := groupOf s i
    let p := bits g.sEnt.toNat 16 16 + 1
    let rank := bits g.sEnt.toNat 32 16
    let a := bits g.sList.toNat 0 44
    let l := (List.range p).map fun k => leNat (rd s.mem (a + 2 * k) 2)
    HostWrites s sec → s.mem.err = [] → s.lnk.kept = [] → s.job.restores = [] → s.job.ask = 0 → a % 64 = 0 → openRange s.cfg.conf a (2 * p) = true →
    (g.valid = false → l[rank]? = some s.cfg.conf.node.toNat → distinct l = true →
      ((s.lnk.groups.filter fun x => x.1 ≠ i && x.2.valid).map fun x => x.2.members.length).sum + p ≤ 1048576 →
      ∃ u : State, exec (.groupCommit sec) s = .next u ∧ OnlyLink (tally s 5 false a (2 * p)) u ∧ (∀ k, k ≠ i → groupOf u k = groupOf s k) ∧ u.lnk.colls = s.lnk.colls
        ∧ groupOf u i = { g with valid := true, dropOk := bit g.sEnt.toNat 1, rank := rank, epoch := g.sEpoch, members := l, list := a, cseq := 0 })
      ∧ (l[rank]? ≠ some s.cfg.conf.node.toNat → exec (.groupCommit sec) s = .next (modGroup (tally s 5 false a (2 * p)) i fun g => { g with wrErr := true })))
  ∧ (∀ (s : State) (sec : Bool),
    let i := s.selH.grp.toNat
    HostWrites s sec → (groupOf s i).valid = true → (s.lnk.colls.all fun c => c.group ≠ i) = true →
    ∃ u : State, exec (.groupInvalidate sec) s = .next u ∧ OnlyLink s u ∧ groupOf u i = { groupOf s i with valid := false }
      ∧ ∀ k, k ≠ i → groupOf u k = groupOf s k)

/-! ### Surviving device loss -/

/-- R450, R452: an escort keeps a mirror where the pool has room for it, and refuses it where it has none. R453, R454: DONE replaces the
mirror by its entry, WITHDRAW discards the mirror, RELEASE everything held for the sender. R459, R460: an ADOPT of a node with nothing held
makes its slot live again; a JOURNAL puts a mirror into the journal of its open stream as accepted, and one that comes before its stream is
open is kept. R455: a BEAT is heard, and the timer sends BEAT to each node that has a plane, after a HELLO (R356) where none has gone to
it. It rests on the readings of log entry 86. -/
def Obligations.EscortTransactions : Prop :=
  (∀ (s : State) (t : Txn) (i : Nat),
    let e := escSlot s i
    let st := bits t.a.toNat 0 16
    FreshTxn s t → escSlotIx s t.src = some i →
    ((∀ x ∈ e.items, ¬(x.1 = st ∧ x.2.1 = t.b ∧ x.2.2.1 = false)) →
      ∃ u : State, exec (.mirror t) s = .next u ∧ u.mem = s.mem ∧ u.cmd = s.cmd ∧ u.til = s.til ∧ SameOuter s u ∧ (∀ k, k ≠ i → escSlot u k = escSlot s k)
        ∧ escSlot u i = (if mirrorRoom s then { e with items := e.items ++ [(st, t.b, false, t.body)], own := t.inc } else e)
        ∧ (t.ttype = 0x30 → Answered s u t 4 (if mirrorRoom s then 0 else 0x010E) []))
      ∧ (∃ u : State, exec (.withdraw t) s = .next u ∧ u.mem = s.mem ∧ u.cmd = s.cmd ∧ u.til = s.til ∧ SameOuter s u ∧ (∀ k, k ≠ i → escSlot u k = escSlot s k)
        ∧ escSlot u i = { e with items := e.items.filter fun x => !(x.1 = st && x.2.1 = t.b && !x.2.2.1) })
      ∧ (∃ u : State, exec (.done t) s = .next u ∧ u.mem = s.mem ∧ u.cmd = s.cmd ∧ u.til = s.til ∧ SameOuter s u ∧ (∀ k, k ≠ i → escSlot u k = escSlot s k)
        ∧ let next : W64 := BitVec.ofNat 64 (leNat (slice t.body 32 8)) + 1
          let l := e.items.filter (fun x => !(x.1 = st && x.2.1 = t.b)) ++ [(st, t.b, true, slice t.body 0 32)]
          escSlot u i = { e with items := l.filter fun x => !(x.1 = st && x.2.1 < next) })
      ∧ (∃ u : State, exec (.release t) s = .next u ∧ u.mem = s.mem ∧ u.cmd = s.cmd ∧ u.til = s.til ∧ SameOuter s u ∧ (∀ k, k ≠ i → escSlot u k = escSlot s k)
        ∧ escSlot u i = {}))
  ∧ (∀ (s : State) (t : Txn) (i : Nat),
    FreshTxn s t → escSlotIx s (BitVec.ofNat 16 t.a.toNat) = some i → (escSlot s i).st ≠ 3 → (escSlot s i).own < t.inc → (escSlot s i).items = [] →
    ∃ u : State, exec (.adopt t) s = .next u ∧ u.mem = s.mem ∧ u.cmd = s.cmd ∧ SameOuter s u ∧ (∀ k, k ≠ i → escSlot u k = escSlot s k)
      ∧ escSlot u i = { escSlot s i with st := 1, own := t.inc })
  ∧ (∀ (s : State) (t : Txn),
    let st := bits t.a.toNat 0 16
    FreshTxn s t → bit t.a.toNat 16 = false → (strmOf s st).opened = true → (s.esc.early.any fun x => decide (bits x.a.toNat 0 16 = st)) = false →
    ∃ (u : State) (e : Entry), exec (.journal t) s = .next u ∧ e ∈ (strmOf u st).journal ∧ e.seq = t.b ∧ e.st = .accepted ∧ e.refused = false
      ∧ e.bytes = slice t.body 0 256 ∧ (strmOf u st).nseq = (if (strmOf s st).nseq ≤ t.b then t.b + 1 else (strmOf s st).nseq) ∧ u.mem = s.mem ∧ u.til = s.til
      ∧ SameStreamsBut st s u ∧ SameOuter s u)
  ∧ (∀ (s : State) (t : Txn),
    let st := bits t.a.toNat 0 16
    FreshTxn s t → (strmOf s st).opened = false → t.body.length < journalLen t + 8 →
    ∃ u : State, exec (.journal t) s = .next u ∧ Answered s u t 4 0 [] ∧ u.esc = { s.esc with early := s.esc.early ++ [t] } ∧ u.cmd = s.cmd
      ∧ u.mem = s.mem ∧ u.til = s.til ∧ SameOuter s u)
  ∧ (∀ (s : State) (t : Txn), answers s = true →
    ∃ u : State, exec (.beat t) s = .next u ∧ OnlyLink s u ∧ (peerOf u t.src.toNat).heard = s.clock ∧ (∀ k, k ≠ t.src.toNat → peerOf u k = peerOf s k))
  ∧ (∀ s : State, answers s = true →
    ∃ (u : State) (l : List Txn), exec .beatTimer s = .next u ∧ OnlyLink s u ∧ u.out.link = s.out.link ++ l
      ∧ (∀ x ∈ l, (x.ttype = 0x33 ∨ x.ttype = 0x10) ∧ x.src = s.cfg.conf.node)
      ∧ ∀ n ∈ beatNodes s, planesTo s (BitVec.ofNat 16 n).toNat ≠ [] → ∃ x ∈ l, x.ttype = 0x33 ∧ x.dst = BitVec.ofNat 16 n)

/-- R457: a LOST that names the device's own node id and its current incarnation moves it to HOLD at once: no job stays in a tile, no job
stays held, and memory and the streams stay as they were. -/
def Obligations.LostMovesToHold : Prop :=
  ∀ (s : State) (t : Txn), FreshTxn s t → BitVec.ofNat 16 t.a.toNat = s.cfg.conf.node → BitVec.ofNat 32 (t.a.toNat >>> 32) = incarnation s →
    ∃ u : State, exec (.lost t) s = .next u ∧ u.cfg.st = .hold ∧ u.mem = s.mem ∧ u.cmd = s.cmd ∧ u.ras.held = [] ∧ u.til.srv = [] ∧ u.til.trn = []
      ∧ ∀ n, (tileOf u n).job = none

/-- R455, R456: a node from which nothing has arrived is lost, and where it is a member of the job's parity group the job is held; R458: so
does the end of the time without a port. R470, R471: a PAGE is XORed into its parity chunk, a SNAPSYNC is kept; R476: a finished chunk of a
rebuild is put in its place; R477, R479, R481: a RESTORE that asks for a replay holds the job, and the host resumes, releases and replays a
job, which R478's drop rule binds from then on where fewer members are left than it began with. It rests on the readings of log entries 15,
87, 88 and 97. -/
def Obligations.JobTransactions : Prop :=
  (∀ (s : State) (t : Txn) (sn : Snap),
    let i := 256 * bits t.b.toNat 0 32 + bits t.b.toNat 32 8
    FreshTxn s t → s.cfg.conf.job ≠ none → s.job.cur = some sn →
    (t.a.toNat = sn.serial →
      ∃ u : State, exec (.page t) s = .next u ∧ u.mem = s.mem ∧ u.cmd = s.cmd ∧ SameOuter s u
        ∧ tget u.job.parNew i [] = xorBytes (slice (tget s.job.parNew i []) 0 8192) (slice t.body 0 8192)
        ∧ u.job.parNext = s.job.parNext ∧ ∀ k, k ≠ i → tget u.job.parNew k [] = tget s.job.parNew k [])
    ∧ (t.a.toNat = sn.serial + 1 →
      ∃ u : State, exec (.page t) s = .next u ∧ u.mem = s.mem ∧ u.cmd = s.cmd ∧ SameOuter s u
        ∧ tget u.job.parNext i [] = xorBytes (slice (tget s.job.parNext i []) 0 8192) (slice t.body 0 8192)
        ∧ u.job.parNew = s.job.parNew ∧ ∀ k, k ≠ i → tget u.job.parNext k [] = tget s.job.parNext k []))
  ∧ (∀ (s : State) (t : Txn),
    FreshTxn s t → s.cfg.conf.job ≠ none → (jobMembers s).contains t.src.toNat = true → s.job.cur = none → bit t.b.toNat 1 = false →
    bit t.b.toNat 0 = true →
    ∃ u : State, exec (.snapsync t) s = .next u ∧ u.mem = s.mem ∧ u.cmd = s.cmd ∧ SameOuter s u
      ∧ u.job = { s.job with mans := s.job.mans ++ [(t.a.toNat, t.src, slice t.body 0 384)] })
  ∧ (∀ (s : State) (t : Txn) (j : JobRec),
    let p := parityGroup s
    let g := p.members.length
    let st := bits t.b.toNat 0 32
    let c := bits t.b.toNat 32 8
    FreshTxn s t → s.cfg.conf.job = some j → 2 ≤ g → bits t.b.toNat 40 8 + 2 = g → s.job.st = 4 → s.job.restores = [] → s.job.ask = 0 → s.mem.err = [] →
    ∃ u : State, exec (.rebuild t) s = .next u ∧ u.cmd = s.cmd ∧ SameOuter s u ∧ u.job.serial = t.a.toNat
      ∧ (pageIn g p.rank st = none → u.mem = s.mem ∧ tget u.job.parity (256 * st + c) [] = slice t.body 0 8192)
      ∧ (∀ pg, pageIn g p.rank st = some pg → pg < pageCount j → addrLost s (pageBase j pg + 8192 * c) = false →
          rd u.mem (pageBase j pg + 8192 * c) t.body.length = t.body ∧ SameBytesBut (pageBase j pg + 8192 * c) t.body.length s u))
  ∧ (∀ (s : State) (t : Txn), FreshTxn s t → s.cfg.conf.job ≠ none → bits t.b.toNat 0 2 = 3 →
    ∃ u : State, exec (.restore t) s = .next u ∧ u.job.replay = true ∧ 2 ≤ u.job.st ∧ OuterOrHold s u)
  ∧ (∀ (s : State) (n : NodeId), answers s = true → noPort s = false → escSlotIx s n = none →
    (s.cfg.conf.job = none →
      ∃ u : State, exec (.lossTimeout n) s = .next u ∧ OnlyLink s u ∧ peerOf u n.toNat = { peerOf s n.toNat with lost := true }
        ∧ ∀ k, k ≠ n.toNat → peerOf u k = peerOf s k)
      ∧ (s.cfg.conf.job ≠ none → (parityGroup s).members.contains n.toNat = true → n ≠ s.cfg.conf.node →
        s.job.lostSet.contains (n, (peerOf s n.toNat).inc) = false → s.job.lostOld.contains (n, (peerOf s n.toNat).inc) = false →
        (peerOf s n.toNat).lost = false →
        ∃ u : State, exec (.lossTimeout n) s = .next u ∧ (peerOf u n.toNat).lost = true ∧ u.job.lost = n ∧ 2 ≤ u.job.st
          ∧ (n, (peerOf s n.toNat).inc) ∈ u.job.lostSet ∧ OuterOrHold s u))
  ∧ (∀ s : State, s.pwr.phase = .on → s.cfg.entered = true → noPort s = true → s.lnk.downAt.isSome = true →
    (s.cfg.conf.escEn = true ∨ s.esc.slots ≠ [] ∨ s.cfg.conf.job ≠ none) →
    ∃ u : State, exec .portsDownTimeout s = .next u ∧ u.cfg.st = .hold ∧ u.mem = s.mem ∧ u.cmd = s.cmd)
  ∧ (∀ (s : State) (sec : Bool),
    let full := ((s.cfg.conf.job.map (·.p0)).getD 0) ≤ (jobMembers s).length
    HostWrites s sec →
    ((jobMembers s).all (· = s.cfg.conf.node.toNat) = true → s.job.st = 2 → s.job.restores = [] →
      (stillLost s = [] →
        ∃ u : State, exec (.jobResume sec) s = .next u ∧ u.job.st = 1 ∧ u.job.restores = [] ∧ u.job.lostSet = [] ∧ (full → u.mem = s.mem) ∧ u.cmd = s.cmd
          ∧ (s.cfg.conf.job.isSome = true → u.job.drop = !decide full) ∧ OuterOrHold s u)
        ∧ (∃ u : State, exec (.jobRelease sec) s = .next u ∧ u.job.st = 1 ∧ u.job.restores = [] ∧ u.job.lostSet = [] ∧ (full → u.mem = s.mem)
            ∧ u.cmd = s.cmd ∧ (s.cfg.conf.job.isSome = true → u.job.drop = !decide full) ∧ OuterOrHold s u))
      ∧ (s.cfg.conf.job ≠ none → ∃ u : State, exec (.jobReplay sec) s = .next u ∧ u.job.replay = true ∧ 2 ≤ u.job.st ∧ OuterOrHold s u)
      ∧ (s.job.st < 2 → exec (.jobResume sec) s = .next { s with job := { s.job with wrErr := true } }))

/-- R356: a HELLO of a node that is new, or of a higher incarnation, is held with its feed, domain and ports, and clears the kept answers.
R355: an answer ends its transaction, and a command waits for one answer less; R354: READ_DATA brings its bytes to the move that waits for
them, and the last one lets it write. After the timeout and on UNREACH the transaction goes out again on the next plane; after the give-up
time a command fails with 0x0601, unless it is a collective that the hold of its job keeps (R10). R354: a transaction of an undefined type
is counted and discarded. It rests on the readings of log entries 81, 82, 95 and 97. -/
def Obligations.AnswersAndTimers : Prop :=
  (∀ (s : State) (t : Txn),
    let p := peerOf s t.src.toNat
    answers s = true → (p.known = false ∨ p.inc < t.inc) → (escSlotIx s t.src = none) → s.cfg.conf.escEn = false →
    s.esc.former.contains t.src = false → s.job.lostSet = [] → s.job.restores = [] → s.job.ask = 0 →
    ∃ u : State, exec (.hello t) s = .next u ∧ OnlyLink s u ∧ (∀ k, k ≠ t.src.toNat → peerOf u k = peerOf s k)
      ∧ peerOf u t.src.toNat =
          { p with known := true, inc := t.inc, feed := BitVec.ofNat 16 t.a.toNat, domain := BitVec.ofNat 16 (t.a.toNat >>> 16),
                   ports := BitVec.ofNat 8 (t.a.toNat >>> 32), answers := [], lost := false, heard := s.clock })
  ∧ (∀ k ∈ [Instr.ack, Instr.readData, Instr.pushResp], ∀ (s : State) (t : Txn) (x : Sent), answerOk s t = true →
    sentTo s t.src (BitVec.ofNat 32 t.a.toNat) = some x →
    (x.why = .none → ∃ u : State, exec (k t) s = .next u ∧ OnlyLink s u ∧ u.lnk.sent = s.lnk.sent.erase x)
      ∧ (∀ st q e, x.why = .cmd st q → bits t.b.toNat 0 16 = 0 → x.txn.ttype ≠ 2 → cmdOf s st q = some e → e.waits.contains (x.txn.dst, x.txn.eseq) = true →
          ∃ u : State, exec (k t) s = .next u ∧ u.lnk.sent = s.lnk.sent.erase x ∧ u.mem = s.mem ∧ SameStreamsBut st s u ∧ SameOuter s u
            ∧ cmdOf u st q = some { e with waits := e.waits.filter (· ≠ (x.txn.dst, x.txn.eseq)) }))
  ∧ (∀ (s : State) (t : Txn) (x : Sent) (st : Nat) (q : W64) (e : Entry), answerOk s t = true →
    sentTo s t.src (BitVec.ofNat 32 t.a.toNat) = some x → x.why = .cmd st q → x.txn.ttype = 2 → bits t.b.toNat 0 16 = 0 → cmdOf s st q = some e →
    e.waits.contains (x.txn.dst, x.txn.eseq) = true →
    let f (y : Entry) : Entry := { y with waits := y.waits.filter (· ≠ (x.txn.dst, x.txn.eseq)),
                                          log := y.log.map fun l => if l.1 = x.txn.eseq.toNat then (l.1, l.2 ++ t.body) else l }
    (((f e).waits ≠ [] ∨ e.ran = true ∨ e.stop.isSome = true) →
      ∃ u : State, exec (.readData t) s = .next u ∧ u.lnk.sent = s.lnk.sent.erase x ∧ u.mem = s.mem ∧ SameStreamsBut st s u ∧ SameOuter s u
        ∧ cmdOf u st q = some (f e))
    ∧ ((f e).waits = [] → e.ran = false → e.stop = none →
      exec (.readData t) s = .next (finishMove (modCmd (dropSent (heard s t) x) st q f) st q (f e) (readMem (f e)))))
  ∧ (∀ (s : State) (t : Txn) (x : Sent) (p : Nat),
    s.pwr.phase = .on → bits t.b.toNat 0 16 = s.cfg.conf.node.toNat → sentTo s t.src (BitVec.ofNat 32 t.a.toNat) = some x →
    planeFrom (planesTo s x.txn.dst.toNat) (x.txn.plane.val + 1) = some p →
    ∃ u : State, exec (.unreach t) s = .next u ∧ OnlyLink s u ∧ u.lnk.retx = sat 0xFFFFFFFF (s.lnk.retx + 1)
      ∧ u.out.link = s.out.link ++ [{ x.txn with plane := Fin.ofNat 8 p }])
  ∧ (∀ (s : State) (dst : NodeId) (q : BitVec 32) (x : Sent) (p : Nat),
    sentTo s dst q = some x → (unanswered s dst).findIdx (· = x) < 1024 → planeFrom (planesTo s x.txn.dst.toNat) (x.txn.plane.val + 1) = some p →
    ∃ u : State, exec (.e2eTimeout dst q) s = .next u ∧ OnlyLink s u ∧ u.lnk.retx = sat 0xFFFFFFFF (s.lnk.retx + 1)
      ∧ u.out.link = s.out.link ++ [{ x.txn with plane := Fin.ofNat 8 p }])
  ∧ (∀ (s : State) (dst : NodeId) (q : BitVec 32) (x : Sent) (st : Nat) (c : W64) (e : Entry),
    sentTo s dst q = some x → x.why = .cmd st c → cmdOf s st c = some e → e.waits.contains (dst, q) = true → s.ser.rebuild = false →
    (heldColl s st c dst = true → exec (.e2eGiveUp dst q) s = .next s)
    ∧ (heldColl s st c dst = false → ∃ u : State, exec (.e2eGiveUp dst q) s = .next u ∧ u.lnk.giveup = sat 0xFFFF (s.lnk.giveup + 1) ∧ u.lnk.sent = s.lnk.sent.erase x
      ∧ cmdOf u st c = some { e.finish 0x0601 with waits := [], log := [] } ∧ u.mem = s.mem ∧ SameStreamsBut st s u ∧ SameOuter s u))
  ∧ (∀ (s : State) (t : Txn), answers s = true →
    (let n := t.ttype.toNat
     n = 0 ∨ (8 < n ∧ n < 0x10) ∨ (0x10 < n ∧ n < 0x20) ∨ (0x25 < n ∧ n < 0x30) ∨ 0x3B < n) →
    ∃ u : State, exec (.transactionDiscard t) s = .next u ∧ OnlyLink s u ∧ u.lnk.discard = sat 0xFFFF (s.lnk.discard + 1))

/-! ### Power, lasers and starts -/

/-- R488: between 58 V and 60 V the device runs and records a power event with status 0x0902; above 60 V it turns off with that status, and
it starts again by soft start once its input has stayed within 46 V to 58 V, and in no other way. R500: a junction at 105 °C turns the
device off with status 0x0903, and it stays off until its input has been below 40 V. It rests on the readings of log entry 53. -/
def Obligations.InputFaultsTurnOff : Prop :=
  (∀ (s : State) (vin : Nat), s.pwr.phase ≠ .off → 5800 < vin →
    ∃ u : State, exec (.inputOvervoltage vin) s = .next u ∧ u.flash.pwrLast = (0x0902, vin, poh s) ∧ u.flash.hist = s.flash.hist ++ [(0x0902, vin, poh s)]
      ∧ (if 6000 < vin then u.pwr.phase = .off ∧ u.pwr.offCause = 2 ∧ RetainsNothing u
         else u.pwr = { s.pwr with vin := vin } ∧ SameWork s u ∧ u.cfg = s.cfg))
  ∧ (∀ (s : State) (vin : Nat), s.pwr.phase = .off → s.pwr.offCause = 2 →
    (∀ c ∈ [Instr.softStart vin, .coldRstRelease], ∃ u : State, exec c s = .next u ∧ u.pwr.phase = .off ∧ u.pwr.offCause = 2 ∧ u.flash = s.flash)
      ∧ (vin < 4600 ∨ 5800 < vin → exec (.inputRestart vin) s = .next s)
      ∧ (4600 ≤ vin → vin ≤ 5800 → s.pwr.seated = true → s.pwr.coldLow = false →
        ∃ u : State, exec (.inputRestart vin) s = .next u ∧ u.pwr.phase = .soft ∧ RetainsNothing u ∧ u.flash = s.flash))
  ∧ (∀ (s : State) (tj : Nat), s.pwr.phase = .on → 105 ≤ tj →
    ∃ u : State, exec (.junctionShutdown tj) s = .next u ∧ u.pwr.phase = .off ∧ u.pwr.offCause = 3 ∧ RetainsNothing u
      ∧ u.flash.pwrLast = (0x0903, tj, poh s) ∧ u.flash.hist = s.flash.hist ++ [(0x0903, tj, poh s)])
  ∧ (∀ (s : State) (vin : Nat), s.pwr.phase = .off → s.pwr.offCause = 3 →
    (∀ c ∈ [Instr.softStart vin, .inputRestart vin, .coldRstRelease], ∃ u : State, exec c s = .next u ∧ u.pwr.phase = .off ∧ u.pwr.offCause = 3 ∧ u.flash = s.flash)
      ∧ (4000 ≤ vin → ∃ u : State, exec (.inputCollapse vin) s = .next u ∧ u.pwr.phase = .off ∧ u.pwr.offCause = 3)
      ∧ (vin < 4000 → ∃ u : State, exec (.inputCollapse vin) s = .next u ∧ u.pwr.phase = .off ∧ u.pwr.offCause = 1
          ∧ ∀ v, s.pwr.coldLow = false → 4600 < v → v ≤ 6000 → ∃ w, exec (.softStart v) u = .next w ∧ w.pwr.phase = .soft ∧ RetainsNothing w))

/-- R491: a tick moves the grant reference towards the draw, the grants held and asked for less the energy stored, or to the floor where
that is higher, by no more than its slope and not above the limit unless it is still coming down to it; while a warm reset waits it comes
down to at most 700 W above the draw (R497); it counts the energy, and R583's sensors follow at their rates. R498: the thermal cap falls by
20 W for each degree above 92 °C of the hottest die or stack, and rises by 10 W at 90 °C and below; a throttle is in PWR_LAST, its
beginning in the fault history. R487, R489, R588, R589: the device turns on and off with its input, seat and COLD_RST#, on by a soft start,
and PWR_LAST says what turned it off, COLD_RST# apart; a loss of power leaves none of the work, the configuration and the security state.
R501: an overpowered port is blanked and goes down with cause 7. R503: a lost reference begins a holdover, which its return ends. R504:
without its reference the host link is down, and retrains on its return. R495, R509: PWR_CAP_USER is taken in HOLD too. R590: PERST# takes
the host link down, asks for a warm reset, and brings the link back. It rests on the readings of log entries 9, 44, 46, 50, 51, 52, 53, 54
and 126. -/
def Obligations.PowerRows : Prop :=
  (∀ (s : State) (us : Nat) (e : Int) (pin : Nat),
    let up : Int := slopeNow s.pwr * 10
    let p := { s.pwr with held := easeGrants (lostGrant s) (s.pwr.held.filter fun x => wanted s x.1 || lostGrant s x.1) up.toNat }
    let all : Int := us + mwSum p.held + mwSum (if warmDefers s then [] else asks { s with pwr := p }) - e
    let want : Int := if warmDefers s then min all (us + 700000) else all
    let floor : Nat := p.floorQ * meanRef p / 64
    let tgt : Int := if p.floorEn = true ∧ warmDefers s = false ∧ want < floor then floor else want
    s.pwr.phase = .on →
    ∃ u : State, exec (.governorTick us e pin) s = .next u ∧ u.clock = s.clock + 10
      ∧ u.pwr.pref = (max ((s.pwr.pref : Int) - up) (min (min tgt (s.pwr.pref + up)) (limMw s.pwr))).toNat ∧ u.pwr.ein = s.pwr.ein + pin
      ∧ u.pldm.ein = (if u.clock % 1000000 < 10 then u.pwr.ein / 100000000 else s.pldm.ein)
      ∧ u.pldm.vin = (if u.clock % 1000 < 10 then s.pwr.vin else s.pldm.vin) ∧ u.pldm.tj = (if u.clock % 10000 < 10 then s.pwr.tj else s.pldm.tj)
      ∧ u.mem = s.mem ∧ u.cmd = s.cmd ∧ u.lnk = s.lnk ∧ u.cfg = s.cfg)
  ∧ (∀ (s : State) (tj th : Nat), s.pwr.phase = .on →
    let hot := max tj th
    let c := if 93 ≤ hot then s.pwr.thcap - 20 * (hot - 92) else if hot ≤ 90 then min s.pwr.cap (s.pwr.thcap + 10) else s.pwr.thcap
    ∃ u : State, exec (.thermalTick tj th) s = .next u ∧ u.pwr = { s.pwr with thcap := c, tj := tj, thbm := th } ∧ SameWork s u ∧ u.cfg = s.cfg
      ∧ u.flash.pwrLast = (if c < s.pwr.cap then (0x0904, hot, poh s) else s.flash.pwrLast)
      ∧ u.flash.hist = s.flash.hist ++ (if c < s.pwr.cap ∧ s.pwr.cap ≤ s.pwr.thcap then [(0x0904, hot, poh s)] else []))
  ∧ (∀ (s : State) (vin : Nat), s.pwr.phase = .off → s.pwr.coldLow = false → s.pwr.offCause ≠ 2 → s.pwr.offCause ≠ 3 → 4600 < vin → vin ≤ 6000 →
    ∃ u : State, exec (.softStart vin) s = .next u ∧ u.pwr.phase = .soft ∧ u.pwr.seated = true ∧ u.pwr.vin = vin ∧ RetainsNothing u ∧ u.flash = s.flash)
  ∧ (∀ (s : State) (vin : Nat), s.pwr.phase ≠ .off → vin < 4600 →
    ∃ u : State, exec (.inputCollapse vin) s = .next u ∧ u.pwr.phase = .off ∧ u.pwr.offCause = 1 ∧ RetainsNothing u
      ∧ u.flash.pwrLast = (0x0901, vin, poh s) ∧ u.flash.hist = s.flash.hist ++ [(0x0901, vin, poh s)])
  ∧ (∀ (s : State) (p : Fin 8), s.pwr.phase = .on → portLit s p.val = true → (portOf s p.val).dis = false →
    ∃ u : State, exec (.opticalOverpower p) s = .next u ∧ (portOf u p.val).st = 0 ∧ (portOf u p.val).cause = 7
      ∧ u.pwr = { s.pwr with blank := s.pwr.blank ||| BitVec.ofNat 8 (1 <<< p.val) } ∧ u.flash.pwrLast = ((0x0905 : Status), 1 <<< p.val, poh s)
      ∧ u.mem = s.mem ∧ u.cmd = s.cmd ∧ u.cfg = s.cfg)
  ∧ (∀ s : State, s.pwr.phase = .on →
    (s.clk.refOk = true →
      ∃ u : State, exec .referenceLost s = .next u ∧ u.clk = { s.clk with refOk := false, hold := true } ∧ u.flash.pwrLast = (0x0906, 0, poh s)
        ∧ SameWork s u ∧ u.cfg = s.cfg)
      ∧ (s.clk.hold = true → exec .referenceReturn s = .next { s with clk := { s.clk with refOk := true, hold := false } })
      ∧ (s.clk.href = true →
        exec .hostReferenceLost s = .next { s with clk := { s.clk with href := false }, hif := { s.hif with up := false } })
      ∧ (s.clk.href = false → s.hif.perst = false → s.ras.io0 = true → s.cfg.st ≠ .powerup →
        ∃ u : State, exec .hostReferenceReturn s = .next u ∧ u.clk = { s.clk with href := true } ∧ u.hif.up = true
          ∧ u.hif.retrains = sat 0xFFFF (s.hif.retrains + 1) ∧ u.mem = s.mem ∧ u.til = s.til ∧ u.cfg = s.cfg)
      ∧ (∃ u : State, exec .seatDeassert s = .next u ∧ u.pwr.phase = .off ∧ u.pwr.seated = false ∧ u.pwr.offCause = 1 ∧ RetainsNothing u
        ∧ u.flash.pwrLast = (0x0901, s.pwr.vin, poh s))
      ∧ (∃ u : State, exec .coldRst s = .next u ∧ u.pwr.phase = .off ∧ u.pwr.coldLow = true ∧ u.pwr.offCause = 4 ∧ RetainsNothing u
        ∧ (s.cfg.busy = 0 → u.flash = s.flash)))
  ∧ (∀ s : State, s.pwr.phase = .off → s.pwr.coldLow = true → s.pwr.seated = true → 4600 < s.pwr.vin → s.pwr.vin ≤ 6000 → s.pwr.offCause ≠ 2 →
    s.pwr.offCause ≠ 3 →
    ∃ u : State, exec .coldRstRelease s = .next u ∧ u.pwr.phase = .soft ∧ u.pwr.coldLow = false ∧ RetainsNothing u ∧ u.flash = s.flash)
  ∧ (∀ s : State,
    (s.hif.perst = false → s.fwu.window = false →
      ∃ u : State, exec (.perst true) s = .next u ∧ u.hif = { s.hif with perst := true, up := false } ∧ SameWork s u
        ∧ u.cfg = (if s.hif.up ∧ s.pwr.phase = .on ∧ resettable s then { s.cfg with warmWait := true } else s.cfg))
      ∧ (s.hif.perst = true → s.pwr.phase = .on → s.clk.href = true → s.ras.io0 = true → s.cfg.st ≠ .powerup →
        ∃ u : State, exec (.perst false) s = .next u ∧ u.hif.perst = false ∧ u.hif.up = true ∧ u.mem = s.mem ∧ u.til = s.til ∧ u.cfg = s.cfg))
  ∧ (∀ (s : State) (sec : Bool) (v : W64), hostOn s = true → secGone s sec = false → ideShut s sec = false →
    exec (.pwrCapUser sec v) s = .next { s with pwr := { s.pwr with ucap := v.setWidth 12 } })

/-- R28, R430, R600 to R602: a laser module that fails or is unlatched while the other is healthy leaves all the light to it; the last one
that fails takes the ports down with cause 8, and stays lit where it is only unlatched. A known module that is latched is tested, then
ramped, and shares the light again, or carries it alone, when the ports train. A module that fails its ramp goes dark. It rests on the
readings of log entry 55. -/
def Obligations.LaserModules : Prop :=
  ∀ (s : State) (lm1 : Bool),
    let b := bayOf s lm1
    let o := bayOf s (!lm1)
    s.pwr.phase = .on →
    (b.ok = true → o.ok = true →
      (∃ u : State, exec (.laserModuleFail lm1) s = .next u
          ∧ bayOf u lm1 = { b with ok := false, pct := 0, testing := false, ramp := false, failed := true }
          ∧ bayOf u (!lm1) = { o with pct := 100 } ∧ LastEvent u 0x19 0 8 (b2n lm1) ∧ SameWork s u)
        ∧ ∃ u : State, exec (.laserLatchOpen lm1) s = .next u ∧ bayOf u lm1 = { b with ok := false, pct := 0, testing := false, ramp := false }
          ∧ bayOf u (!lm1) = { o with pct := 100 } ∧ LastEvent u 0x19 0 8 (b2n lm1) ∧ SameWork s u)
    ∧ (b.ok = true → o.ok = false → b.ramp = false →
      (∃ u : State, exec (.laserModuleFail lm1) s = .next u ∧ (bayOf u lm1).ok = false ∧ (bayOf u lm1).failed = true
          ∧ (∀ p, p < 8 → if (portOf s p).st = 0 ∨ (portOf s p).st = 4 then (portOf u p).st = (portOf s p).st
              else (portOf u p).st = 0 ∧ (portOf u p).cause = 8) ∧ LastEvent u 0x19 0 0 (b2n lm1) ∧ u.mem = s.mem ∧ u.cmd = s.cmd ∧ u.til = s.til)
        ∧ exec (.laserLatchOpen lm1) s = .next s)
    ∧ (b.ok = false → b.ramp = true → o.ok = true →
      ∃ u : State, exec (.laserModuleFail lm1) s = .next u
        ∧ bayOf u lm1 = { b with ok := false, pct := 0, testing := false, ramp := false, failed := true }
        ∧ bayOf u (!lm1) = { o with pct := 100 } ∧ LastEvent u 0x19 0 8 (b2n lm1) ∧ SameWork s u)
    ∧ (∀ seated known, b.ok = false →
      ∃ u : State, exec (.laserLatchClose lm1 seated known) s = .next u ∧ SameWork s u ∧ bayOf u (!lm1) = o
        ∧ bayOf u lm1 = { ok := false, pct := 0, seated := seated, testing := seated && known, failed := seated && !known, ramp := false })
    ∧ (∀ pass, b.testing = true →
      ∃ u : State, exec (.laserSelftestDone lm1 pass) s = .next u ∧ SameWork s u ∧ bayOf u (!lm1) = o
        ∧ bayOf u lm1 = { b with testing := false, ramp := pass, failed := !pass })
    ∧ (b.ramp = true → o.ok = true →
      ∃ u : State, exec (.laserRampDone lm1) s = .next u ∧ SameWork s u ∧ bayOf u (!lm1) = { o with pct := 50 }
        ∧ bayOf u lm1 = { b with ok := true, ramp := false, failed := false, pct := 50 })
    ∧ (b.ramp = true → o.ok = false →
      ∃ u : State, exec (.laserRampDone lm1) s = .next u ∧ u.mem = s.mem ∧ u.cmd = s.cmd
        ∧ bayOf u lm1 = { b with ok := true, ramp := false, failed := false, pct := 100 }
        ∧ ∀ p, p < 8 → (portOf s p).st = 0 → (portOf s p).dis = false → portLit u p = true → (portOf u p).st = 1)

/-- R548, R549: the boot ROM starts a plane with a firmware image that passes its checks, or goes to recovery. R536: where the flash's
counters do not authenticate the device records 0x080C and stays in POWERUP, whatever follows. R510, R303: control firmware's start counts
the boot, and ends in SELFTEST or waits in CONFIGURE. R511: a tile that fails its self-test is retired; R513: after SERVICE has been
entered no tile is tested. R507, R510: then SERVICE or MAINTENANCE is entered. R280, R513, R560, R575: a warm reset keeps the boot count
and the retained memory, clears the staging region and the workspace pool, keys, sessions and the MSI-X state. R513, R567: the host and a
Function Level Reset ask for one. It rests on the readings of log entries 54, 63, 74 and 126. -/
def Obligations.StartsAndResets : Prop :=
  (∀ s : State, s.pwr.phase ≠ .off → s.cfg.st = .powerup → s.fwu.recovery = false → s.ras.planeA.fw = [] → s.ras.planeB.fw = [] → s.ras.io0 = true → s.ras.io1 = true →
    s.fwu.last ≠ 0x080C →
    let s1 : State := { s with flash := { s.flash with fwA := s.flash.fwA.settle, fwB := s.flash.fwB.settle } }
    (rpmcOk s = false → ∃ u : State, exec .bootRomStart s = .next u ∧ u.fwu.last = 0x080C ∧ u.flash = { s.flash with hist := s.flash.hist ++ [(0x080C, 0, poh s)] }
      ∧ SameWork s u ∧ u.ras = s.ras ∧ u.cfg = s.cfg ∧ exec .bootRomStart u = .next u)
    ∧ (rpmcOk s = true → ∃ u : State, exec .bootRomStart s = .next u ∧ u.mem = s.mem ∧ u.til = s.til ∧ u.cfg = s.cfg ∧ u.flash = s1.flash ∧ u.pwr.phase = .on ∧ u.clk.lock = true
      ∧ u.clk.refOk = true ∧ u.clk.href = true
      ∧ match bootSlot s1 with
        | some b => u.fwu.recovery = false ∧ (activePlane u).fw = (fwSlot s b).img
        | none => u.fwu.recovery = true ∧ (activePlane u).fw = []))
  ∧ (∀ s : State, s.pwr.phase = .on → s.cfg.st = .powerup → s.fwu.recovery = false → (activePlane s).fw ≠ [] → s.lnk.kept = [] → s.lnk.colls = [] →
    ∃ u : State, exec .configure s = .next u ∧ u.flash.ctr2 = sat 0xFFFFFFFF (s.flash.ctr2 + 1) ∧ u.hif.gen = s.hif.gen + 1 ∧ u.cfg.cause = 0
      ∧ u.mem = { s.mem with slots := (restoreSlots s).mem.slots }
      ∧ ((u.cfg.st = .configure ∧ u.cfg.waiting = true) ∨ (u.cfg.st = .selftest ∧ u.cfg.waiting = false ∧ u.cfg.tested = false)))
  ∧ (∀ (s : State) (ft : List TileNo) (fr : List (Fin 16)) (kv kf : List (BitVec 4)) (sm : List Sample), s.pwr.phase = .on → s.cfg.st = .selftest →
    ∃ u : State, exec (.selftest ft fr kv kf sm) s = .next u ∧ u.cfg = { s.cfg with tested := true } ∧ u.mem = s.mem ∧ u.cmd = s.cmd
      ∧ (s.cfg.served = false → ∀ t, ft = [t] → fr = [] → (rasOf s t.toNat).st = 0 → t.toNat % 16 < 11 → cluUp s (t.toNat / 16) = true →
        (rasOf u t.toNat).st = 4 ∧ tileUp u t.toNat = false)
      ∧ (s.cfg.served = true → fr = [] → ∀ n, (rasOf u n).st = (rasOf s n).st))
  ∧ (∀ s : State, s.pwr.phase = .on → s.cfg.st = .selftest → s.cfg.tested = true →
    ∃ u : State, exec .serviceEntry s = .next u ∧ u.cfg.entered = true ∧ u.flash = s.flash
      ∧ (u.cfg.st = (if s.cfg.toMaint && s.cfg.conf.maintOk then .maintenance else .service) ∨ (s.cfg.served = true ∧ u.cfg.st = .hold))
      ∧ (s.cfg.served = false → u.mem = s.mem))
  ∧ (∀ s : State, warmReady s = true → s.fwu.window = false → s.lnk.kept = [] → s.lnk.colls = [] → s.evd.logPos = 0 →
    let lo := rgnBase s.cfg.conf 1 * page
    let hi := rgnBase s.cfg.conf 3 * page
    (s.cmd.streams.all fun x => x.2.journal.all fun e => e.log = []) = true →
    ∃ u : State, exec .warmReset s = .next u ∧ u.flash.ctr2 = s.flash.ctr2 ∧ u.hif.gen = s.hif.gen + 1 ∧ u.cfg.cause = 1 ∧ u.sec.sess = [] ∧ u.sec.half = []
      ∧ u.sec.ide = 0 ∧ u.sec.lock = false ∧ u.hif.msixEn = false ∧ (∀ n, (tileOf u n).job = none)
      ∧ (∀ a, lo ≤ a → a < hi → rdB u.mem a = 0) ∧ (∀ a, a < lo ∨ hi ≤ a → rdB u.mem a = rdB s.mem a)
      ∧ ((u.cfg.st = .configure ∧ u.cfg.waiting = true) ∨ ((u.cfg.st = .service ∨ u.cfg.st = .maintenance) ∧ u.cfg.entered = true)
        ∨ (u.cfg.st = .selftest ∧ s.cfg.served = false)))
  ∧ (∀ s : State, s.hif.up = true → s.pwr.phase = .on → resettable s = true → s.fwu.window = false →
    exec .functionLevelReset s = .next { s with cfg := { s.cfg with warmWait := true } })
  ∧ (∀ (s : State) (sec : Bool), HostWrites s sec → resettable s = true → s.fwu.window = false →
    exec (.cfgWarmReset sec) s = .next { s with cfg := { s.cfg with warmWait := true } })

/-! ### Firmware and configuration -/

/-- R542, R543: FWU_BEGIN empties STAGE; FWU_WRITE copies units of the general region into it. R547, R541: FWU_INSTALL writes a staged
image that passes its checks to the slot not in force (in recovery to slot A), and reports the status of one that does not. R532, R549: an
operation ends with its status; an install that verified has its slot marked trial, and in recovery confirmed, when the device starts
again. R550 to R552: a handover begins where nothing forbids it; its standby plane becomes active and the health window begins, or it
aborts. R554, R556: the window ends in a confirmation, which puts the trial images in force and raises the rollback counters, or in a
fallback, which marks them failed and gives the former plane the device back. It rests on the readings of log entries 62, 73, 77 and 126. -/
def Obligations.FirmwareUpdates : Prop :=
  (∀ (s : State) (sec : Bool), HostWrites s sec ∨ romOn s = true → opRuns s = false →
    (∃ u : State, exec (.fwuBegin sec) s = .next u ∧ u.flash = { s.flash with stage := [], units := [], staged := 0 } ∧ u.fwu = { s.fwu with op := 1 }
        ∧ SameWork s u ∧ u.cfg = s.cfg)
      ∧ (let src := bits s.fwu.src.toNat 0 44
         let off := bits s.fwu.len.toNat 0 12
         let n := bits s.fwu.len.toNat 16 8 + 1
         s.mem.err = [] → inGeneral s.cfg.conf src (n * 4096) = true → src % 4096 = 0 → off + n ≤ 4096 →
         (s.flash.units.any fun u => off ≤ u && u < off + n) = false →
         ∃ u : State, exec (.fwuWrite sec) s = .next u ∧ u.fwu = { s.fwu with op := 2 } ∧ u.flash.units = s.flash.units ++ (List.range n).map (off + ·)
           ∧ (∀ i, i < n * 4096 → tget u.flash.stage (off * 4096 + i) 0 = rdB s.mem (src + i)) ∧ SameWork s u ∧ u.cfg = s.cfg)
      ∧ (∀ img, stagedImage s 0 = some img →
         ∃ u : State, exec (.fwuInstall sec) s = .next u ∧ SameWork s u ∧ u.cfg = s.cfg
           ∧ (if fwStatus s img ≠ 0 then
                u.fwu = { s.fwu with last := fwStatus s img } ∧ u.flash.fwA = s.flash.fwA ∧ u.flash.fwB = s.flash.fwB ∧ u.flash.fwIn = s.flash.fwIn
              else u.fwu = { s.fwu with op := 3 }
                ∧ (if s.fwu.recovery then u.flash = { s.flash with fwA := {} }
                   else fwSlot u (!s.flash.fwIn) = {} ∧ fwSlot u s.flash.fwIn = fwSlot s s.flash.fwIn
                     ∧ u.flash.fwIn = s.flash.fwIn))))
  ∧ (∀ (s : State) (ok : Bool), s.pwr.phase = .on →
    (s.fwu.op = 1 ∨ s.fwu.op = 2 →
      ∃ u : State, exec (.flashOperationDone ok) s = .next u ∧ u.fwu = { s.fwu with op := 0, last := if ok then 0 else 0x080B } ∧ SameWork s u ∧ u.cfg = s.cfg)
      ∧ (s.fwu.op = 3 → (ok = false ∨ s.fwu.recovery = false) →
        ∃ u : State, exec (.flashOperationDone ok) s = .next u ∧ u.fwu = { s.fwu with op := 0, last := if ok then 0 else 0x080B } ∧ SameWork s u ∧ u.cfg = s.cfg
          ∧ (let b := !s.fwu.recovery && !s.flash.fwIn
             fwSlot u b = (if ok then { img := (stagedImage s 0).getD [], st := 1 } else fwSlot s b) ∧ fwSlot u (!b) = fwSlot s (!b)))
      ∧ (s.fwu.op = 3 → ok = true → s.fwu.recovery = true →
        ∃ u : State, exec (.flashOperationDone ok) s = .next u ∧ u.pwr.phase = .soft ∧ RetainsNothing u
          ∧ u.flash = { s.flash with fwA := { img := (stagedImage s 0).getD [], st := 2 }, fwIn := false })
      ∧ (s.fwu.op = 0 → s.cfg.busy ≠ 0 →
        ∃ u : State, exec (.flashOperationDone ok) s = .next u ∧ u.cfg.busy = 0 ∧ u.cfg.last = (if ok then 0 else 0x0A0C) ∧ SameWork s u
          ∧ cfgSlot u (!s.flash.cfgIn)
              = (if ok then ((busyImage s).map fun img => ({ img := img, st := 1 } : FSlot)).getD (cfgSlot s (!s.flash.cfgIn)) else cfgSlot s (!s.flash.cfgIn))
          ∧ (ok = true → u.flash.ctr3 = if s.cfg.busy = 1 ∧ (ownerNow s).isSome = true then s.flash.ctr3 else s.flash.ctr3 + 1)))
  ∧ (∀ (s : State) (sec fwSel cfgSel : Bool) (win : BitVec 16), HostWrites s sec →
    ∃ u : State, exec (.handover sec fwSel cfgSel win) s = .next u ∧ SameWork s u ∧ u.ras = s.ras
      ∧ (if handoverStatus s fwSel cfgSel = 0 then
           (consuming s = true → u.cfg = { s.cfg with handover := true }
             ∧ u.fwu = { s.fwu with fwSel := fwSel, cfgSel := cfgSel, winReq := if win = 0 then 600 else win.toNat })
           ∧ (consuming s = false → u = s)
         else u.cfg = s.cfg ∧ u.fwu = { s.fwu with last := handoverStatus s fwSel cfgSel }))
  ∧ (∀ s : State, s.cfg.handover = true → consuming s = true → s.lnk.kept = [] → s.lnk.colls = [] → s.evd.logPos = 0 →
    ∃ u : State, exec .standbyRebuildDone s = .next u ∧ u.cfg.handover = false
      ∧ ((s.cmd.streams.all fun x => x.2.journal.all fun e => e.log = []) = true → u.mem = s.mem)
      ∧ (if standbyOk s = true ∧ fwStatus s (nextFw s).img = 0 ∧ imageStatus s (nextCfg s).img = 0 then
           u.ras.actB = (!s.ras.actB) ∧ (activePlane u).fw = (nextFw s).img ∧ u.fwu.window = true ∧ u.fwu.remain = s.fwu.winReq
             ∧ u.hif.gen = s.hif.gen + 1
         else u.ras.actB = s.ras.actB ∧ u.fwu.last = 0x0809))
  ∧ (∀ s : State, s.cfg.handover = true →
    ∃ u : State, exec .handoverAborted s = .next u ∧ u.cfg.handover = false ∧ u.fwu.last = 0x0809 ∧ u.ras.actB = s.ras.actB ∧ u.mem = s.mem ∧ u.cmd = s.cmd)
  ∧ (∀ (s : State) (sec : Bool), HostWrites s sec → s.fwu.window = true →
    let f := !s.flash.fwIn
    let c := !s.flash.cfgIn
    (∃ u : State, exec (.fwuConfirm sec) s = .next u ∧ exec .healthWindowExpiry s = .next u ∧ u.fwu.window = false ∧ u.fwu.remain = 0 ∧ u.fwu.last = 0
        ∧ SameWork s u ∧ u.cfg = s.cfg ∧ s.flash.ctr0 ≤ u.flash.ctr0 ∧ s.flash.ctr1 ≤ u.flash.ctr1
        ∧ (s.fwu.fwSel = true → (fwSlot s f).st = 1 →
            u.flash.fwIn = f ∧ (fwSlot u f).st = 2 ∧ u.flash.ctr0 = max s.flash.ctr0 (fwFloor (fwSlot s f).img))
        ∧ (s.fwu.cfgSel = true → (cfgSlot s c).st = 1 →
            u.flash.cfgIn = c ∧ (cfgSlot u c).st = 2 ∧ u.flash.ctr1 = max s.flash.ctr1 (imgCfloor (cfgSlot s c).img)))
      ∧ (s.lnk.kept = [] → s.lnk.colls = [] →
        ∃ u : State, exec (.fwuFallback sec) s = .next u ∧ exec .healthSignalTimeout s = .next u ∧ exec .declaredUnhealthy s = .next u
          ∧ u.fwu.window = false ∧ u.fwu.last = 0x080A ∧ u.flash.ctr0 = s.flash.ctr0
          ∧ (s.fwu.fwSel = true → (fwSlot s f).st = 1 → (fwSlot u f).st = 3)
          ∧ ((planeOf s (!s.ras.actB)).st = 0 → u.ras.actB = !s.ras.actB)))
  ∧ (∀ s : State,
    let b := !s.ras.actB
    serviceOn s = true → (planeOf s b).st = 3 → (if b then s.ras.io1 else s.ras.io0) = true →
    ∃ u : State, exec .formerPlaneRestartDone s = .next u 
      ∧ planeOf u b = (if s.fwu.window then { planeOf s b with st := 0, fw := (fwSlot s s.flash.fwIn).img, conf := s.fwu.oldCfg }
                       else { planeOf s b with st := 0, fw := (activePlane s).fw, conf := s.cfg.confImg })
      ∧ planeOf u s.ras.actB = activePlane s ∧ u.ras.actB = s.ras.actB ∧ SameWork s u ∧ u.cfg = s.cfg ∧ u.flash = s.flash)

/-- R519, R530: CFG_APPLY writes a staged image that passes its checks to the slot not in force, which is marked at the operation's end,
and reports the status of one that does not. R531: OWNERSHIP_TRANSFER without a token that its checks accept ends with 0x0A08; with one the
new owner's image is written, or the device released, and the owner records and the owner epoch change as the operation ends
(FLASH_OPERATION_DONE, log entry 73). R508, R552: MAINTENANCE is entered where the image permits it, else 0x0A06 is reported, and left once
no command that only MAINTENANCE runs is accepted or running. It rests on the readings of log entries 72 and 73. -/
def Obligations.ConfigurationAndMaintenance : Prop :=
  (∀ (s : State) (sec : Bool) (img : List Byte), HostWrites s sec → cfgMay s = true → opRuns s = false → stagedImage s 0 = some img →
    ∃ u : State, exec (.cfgApply sec) s = .next u ∧ SameWork s u ∧ u.fwu = s.fwu ∧ u.flash.cfgIn = s.flash.cfgIn
      ∧ cfgSlot u s.flash.cfgIn = cfgSlot s s.flash.cfgIn
      ∧ u.flash.ownA = s.flash.ownA ∧ u.flash.ownB = s.flash.ownB ∧ u.flash.ctr3 = s.flash.ctr3
      ∧ (let v : Status := if checkImage s (ownerNow s) none img = 0 ∧ ownerSound s = false then 0x0A03 else checkImage s (ownerNow s) none img
         if v = 0 then u.cfg = { s.cfg with busy := 1 } ∧ cfgSlot u (!s.flash.cfgIn) = {}
         else u.cfg = { s.cfg with last := v } ∧ cfgSlot u (!s.flash.cfgIn) = cfgSlot s (!s.flash.cfgIn)))
  ∧ (∀ (s : State) (sec : Bool), HostWrites s sec → cfgMay s = true → opRuns s = false →
    let t := stageBytes s 0 256
    let dig := slice t 0x38 48
    ∃ u : State, exec (.ownershipTransfer sec) s = .next u ∧ SameWork s u ∧ u.fwu = s.fwu ∧ u.flash.ctr0 = s.flash.ctr0 ∧ u.flash.ctr1 = s.flash.ctr1
      ∧ u.flash.ctr3 = s.flash.ctr3
      ∧ (if s.flash.units.contains 0 = false ∨ tokenOk s t = false then u.cfg = { s.cfg with last := 0x0A08 }
         else if dig.all (· = 0) then
           u.cfg = { s.cfg with busy := 3 } ∧ u.flash = s.flash
         else match stagedImage s 0x1000 with
           | none => u.cfg = { s.cfg with last := 0x0A01 }
           | some img =>
             if checkImage s (ownerOf s) (some dig) img = 0 then
               u.cfg = { s.cfg with busy := 2 } ∧ cfgSlot u (!s.flash.cfgIn) = {}
             else u.cfg = { s.cfg with last := checkImage s (ownerOf s) (some dig) img }))
  ∧ (∀ (s : State) (sec : Bool), HostWrites s sec → s.cfg.st = .service →
    ∃ u : State, exec (.enterMaintenance sec) s = .next u ∧ SameWork s u ∧ u.fwu = s.fwu
      ∧ (if s.cfg.handover then u.cfg = { s.cfg with maintReq := 1 }
         else if s.cfg.conf.maintOk then u.cfg = { s.cfg with st := .maintenance, maintReq := 0 }
         else u.cfg = { s.cfg with maintReq := 0, last := 0x0A06 }))
  ∧ (∀ (s : State) (sec : Bool), HostWrites s sec → s.cfg.st = .maintenance →
    ∃ u : State, exec (.leaveMaintenance sec) s = .next u ∧ SameWork s u ∧ u.fwu = s.fwu ∧ u.flash = s.flash
      ∧ (if s.cfg.handover ∨ maintBusy s then u.cfg = { s.cfg with maintReq := 2 } else u.cfg = { s.cfg with st := .service, maintReq := 0 }))

/-! ### The host, the management interface and SPDM -/

/-- R21, R509, R569, R572, R573: a well-formed write acts on its register, a poisoned one and one of another size or alignment are counted
and do nothing else, and in HOLD only PWR_CAP_USER is taken. R276: through BAR4 the host writes and reads the general region. R573: an
AtomicOp is refused. R584: a management request reads registers under its own selections, and writes PWR_CAP_USER alone. R574, R575:
unmasked vectors and Bus Master Enable let out what waits. It rests on the readings of log entries 56, 57, 58, 59 and 64. -/
def Obligations.HostAccesses : Prop :=
  (∀ (s : State) (sec : Bool) (bar : Fin 3) (off size : Nat) (v : W64),
    let odd := !((size = 4 || size = 8) && off % size = 0)
    hostOn s = true → secGone s sec = false → ideShut s sec = false → s.fwu.recovery = false → bar.val ≠ 2 →
    exec (.registerWrite sec bar off size v true) s = .next (countPoison s)
      ∧ (odd = true → exec (.registerWrite sec bar off size v false) s = .next (countBad s bar.val off))
      ∧ (odd = false → bar.val = 0 → off < 0x4000000 → inHold s = false →
        exec (.registerWrite sec bar off size v false) s = .next (writeReg s (regWr off size v.toNat)))
      ∧ (odd = false → bar.val = 0 → inHold s = true → (regWr off size v.toNat).off ≠ 0xA00008 →
        exec (.registerWrite sec bar off size v false) s = .next s)
      ∧ (odd = false → bar.val = 1 → s.cfg.entered = true → off < 0x10000000 → inHold s = false →
        exec (.registerWrite sec bar off size v false) s = .next (writeBell s (regWr off size v.toNat)))
      ∧ (odd = false → bar.val = 1 → s.cfg.entered = false → exec (.registerWrite sec bar off size v false) s = .next (countBad s 1 off)))
  ∧ (∀ (s : State) (v : W64) (n : Nat),
    writeReg s (regWr 0x28 8 v.toNat) = { s with hif := { s.hif with evtCfg := v &&& 0xFFF } }
      ∧ writeReg s (regWr 0x30 8 v.toNat) = { s with hif := { s.hif with evt := s.hif.evt &&& ~~~(v.setWidth 4) } }
      ∧ writeReg s (regWr 0xA00008 8 v.toNat) = { s with pwr := { s.pwr with ucap := v.setWidth 12 } }
      ∧ (bit (strmOf s n).cfg.toNat 2 = false →
        writeBell s (regWr (n * 4096) 4 v.toNat) = setPi s n (v.setWidth 32)))
  ∧ (∀ (s : State) (sec : Bool) (off : Nat) (data : List Byte),
    hostOn s = true → secGone s sec = false → ideShut s sec = false → s.cfg.entered = true → data ≠ [] → inGeneral s.cfg.conf off data.length = true →
    data.length ≤ page - off % page → s.mem.err = [] → addrLost s off = false →
    ∃ u : State, exec (.bar4Write sec off data false) s = .next u ∧ rd u.mem off data.length = data ∧ SameBytesBut off data.length s u ∧ u.cmd = s.cmd
      ∧ u.til = s.til ∧ u.lnk = s.lnk ∧ SameOuter s u)
  ∧ (∀ (s : State) (sec : Bool) (off len : Nat),
    hostOn s = true → secGone s sec = false → ideShut s sec = false → s.cfg.entered = true → inGeneral s.cfg.conf off len = true → s.mem.err = [] →
    (∀ i, i < len → addrLost s (off + i) = false) →
    ∃ u : State, exec (.bar4Read sec off len) s = .next u ∧ u.out.replies = s.out.replies ++ [.bytes (rd s.mem off len)] ∧ SameWork s u ∧ SameOuter s u)
  ∧ (∀ (s : State) (bar : Fin 3) (off : Nat), hostOn s = true →
    exec (.atomicopRequest bar off) s = .next { s with out := { s.out with replies := s.out.replies ++ [.unsupported] } })
  ∧ (∀ (s : State) (body : List Byte) (m : Sel) (off cnt v : Nat), mgmtOn s = true →
    (mctpParse 1 body s.selM = some (m, off, cnt, v) →
      ∃ u : State, exec (.mctpRegisterRead body) s = .next u ∧ u.selM = m ∧ u.selH = s.selH ∧ SameWork s u ∧ SameOuter s u
        ∧ u.out.replies = s.out.replies ++ [.mctp 0 ((List.range cnt).map fun i => BitVec.ofNat 64 (readReg s m (off + 8 * i)))])
      ∧ (mctpParse 2 body s.selM = some (m, off, cnt, v) →
        ∃ u : State, exec (.mctpRegisterWrite body) s = .next u ∧ u.selM = m ∧ u.pwr = { s.pwr with ucap := BitVec.ofNat 12 v } ∧ SameWork s u
          ∧ u.cfg = s.cfg ∧ u.out.replies = s.out.replies ++ [.mctp 0 []])
      ∧ (mctpParse 1 body s.selM = none →
        exec (.mctpRegisterRead body) s = .next { s with out := { s.out with replies := s.out.replies ++ [.mctp 1 []] } }))
  ∧ (∀ s : State, hostOn s = true →
    (∀ v : BitVec 11, inHold s = false →
      ∃ u : State, exec (.msixUnmask (some v)) s = .next u ∧ vecMasked u v.toNat = false ∧ (∀ k, k ≠ v.toNat → vecMasked u k = vecMasked s k)
        ∧ u.mem = s.mem ∧ u.til = s.til ∧ u.cfg = s.cfg)
      ∧ (∃ u : State, exec (.msixUnmask none) s = .next u ∧ u.hif.msixEn = true ∧ u.hif.fmask = false ∧ u.mem = s.mem ∧ u.til = s.til ∧ u.cfg = s.cfg)
      ∧ ∃ u : State, exec .busMasterEnable s = .next u ∧ u.hif.bme = true ∧ u.mem = s.mem ∧ u.til = s.til ∧ u.cfg = s.cfg ∧ u.cmd.awbWait = [])

/-- R539, R557 to R559: the responder answers what needs no session, signs what it must sign, opens up to four sessions on each transport,
and ends them; GET_MEASUREMENTS waits while a handover runs. R560 to R562: IDE_KM within a session secures a stream, a failed check makes
it insecure and is reported, and the lock is set. What a message holds is laid out by an opaque function (log entry 11). It rests on the
readings of log entries 11, 45 and 61. -/
def Obligations.SpdmAndIde : Prop :=
  (∀ (s : State) (tr : Transport), spdmOn s tr = true →
    let say (kind : Nat) (l : List Nat) : State := { s with out := { s.out with spdm := s.out.spdm ++ [(isDoe tr, Config.layout (16 + kind) l)] } }
    exec (.getVersion tr) s = .next (say 1 [0x13]) ∧ exec (.getCapabilities tr) s = .next (say 2 [4])
      ∧ exec (.negotiateAlgorithms tr) s = .next (say 3 [384, 384, 384, 256])
      ∧ exec (.getDigests tr) s = .next (say 4 [certDigest s 0, certDigest s 1])
      ∧ (∀ slot off len,
        let p := ((certChain s slot).drop off).take len
        exec (.getCertificate tr slot off len) s
          = .next (if slot ≤ 1 ∧ off < (certChain s slot).length
              then say 5 ([slot, p.length, (certChain s slot).length - off - p.length] ++ p.map BitVec.toNat) else say 0 []))
      ∧ (∀ slot nonce, slot ≤ 1 → signOk s = true →
        ∃ (u : State) (m : List Byte), exec (.challenge tr slot nonce) s = .next u ∧ u.out.spdm = s.out.spdm ++ [(isDoe tr, m)] ∧ u.sec = s.sec ∧ SameWork s u ∧ SameOuter s u)
      ∧ (∀ idx nonce,
        (s.cfg.handover = true → exec (.getMeasurements tr idx nonce) s
            = .next { s with sec := { s.sec with heldMeas := s.sec.heldMeas ++ [(isDoe tr, idx.toNat, nonce)] } })
          ∧ (s.cfg.handover = false →
            ∃ (u : State) (m : List Byte), exec (.getMeasurements tr idx nonce) s = .next u ∧ u.out.spdm = s.out.spdm ++ [(isDoe tr, m)] ∧ u.sec = s.sec ∧ SameWork s u
              ∧ SameOuter s u))
      ∧ (∀ i, signOk s = true → newSession s (isDoe tr) = some i →
        ∃ (u : State) (m : List Byte), exec (.keyExchange tr) s = .next u ∧ u.out.spdm = s.out.spdm ++ [(isDoe tr, m)]
          ∧ u.sec = { s.sec with half := s.sec.half ++ [(isDoe tr, i)] } ∧ SameWork s u)
      ∧ (∀ ses, s.sec.half.contains (isDoe tr, ses) = true →
        ∃ u : State, exec (.finish tr ses true) s = .next u ∧ SameWork s u
          ∧ u.sec = { s.sec with half := s.sec.half.filter (· ≠ (isDoe tr, ses)), sess := s.sec.sess ++ [(isDoe tr, ses)] })
      ∧ (∀ ses, s.sec.sess.contains (isDoe tr, ses) = true →
        exec (.heartbeat tr ses) s = .next (say 10 [ses]) ∧ exec (.keyUpdate tr ses) s = .next (say 11 [ses])
          ∧ ∃ u : State, exec (.endSession tr ses) s = .next u ∧ SameWork s u ∧ u.sec = { s.sec with sess := s.sec.sess.filter (· ≠ (isDoe tr, ses)) }))
  ∧ (∀ (s : State) (ses : Nat) (i : Fin 5), spdmOn s .doe = true → s.sec.sess.contains (true, ses) = true → signOk s = true → s.hif.flit = true →
    ∃ u : State, exec (.ideKm ses i) s = .next u ∧ u.sec = { s.sec with ide := s.sec.ide ||| ideBit i.val } ∧ SameWork s u)
  ∧ (∀ (s : State) (i : Fin 5), hostOn s = true → bit s.sec.ide.toNat i.val = true →
    ∃ u : State, exec (.ideCheckFail i) s = .next u ∧ u.sec = { s.sec with ide := s.sec.ide &&& ~~~(ideBit i.val), ideFail := true }
      ∧ u.fwu.last = 0x080D ∧ SameWork s u)
  ∧ (∀ (s : State) (sec : Bool), HostWrites s sec → exec (.ideLock sec) s = .next { s with sec := { s.sec with lock := true } })

/-! ### The symbol code -/

/-- R292: the symbol code corrects one wrong symbol in each of the two codewords of a word, whatever the symbols and their errors, in both
tiers' layouts; R293: a poisoned word never decodes. -/
def Obligations.SymbolCodeCorrects : Prop :=
  (∀ (hbm : Bool) (i v j w : Nat), i < 36 → v < 16 → j < 36 → w < 16 →
    decodeWord hbm (BitVec.ofNat 288 (symPat hbm 0 i v ^^^ symPat hbm 1 j w)) = some 0)
  ∧ ∀ hbm, decodeWord hbm (poisonPat hbm) = none
end

