-- ==== Sys2Proof/Laws/Tables.lean ====
section
/-! SUPPORT. Sparse tables: reading what was written, and the canonical form. -/

namespace Sys2Proof.Machine

theorem tget_tins_same {α : Type} (t : Tbl α) (k : Nat) (v d : α) : tget (tins t k v) k d = v := by
  induction t with
  | nil => simp [tins, tget]
  | cons e r ih =>
    obtain ⟨j, w⟩ := e
    unfold tins
    split
    · simp [tget]
    · split
      · simp [tget]
      · rename_i h1 h2
        have h : ¬ j = k := fun h => h2 h.symm
        simp [tget, h, ih]

theorem tget_tins_ne {α : Type} (t : Tbl α) {k i : Nat} (h : i ≠ k) (v d : α) : tget (tins t k v) i d = tget t i d := by
  have hk : ¬ k = i := fun e => h e.symm
  induction t with
  | nil => simp [tins, tget, hk]
  | cons e r ih =>
    obtain ⟨j, w⟩ := e
    unfold tins
    split
    · simp [tget, hk]
    · split
      · rename_i h1 h2
        subst h2
        simp [tget, hk]
      · simp [tget, ih]

theorem tget_filter_same {α : Type} (t : Tbl α) (k : Nat) (d : α) : tget (t.filter fun e => e.1 ≠ k) k d = d := by
  induction t with
  | nil => rfl
  | cons e r ih =>
    by_cases h : e.1 = k
    · simpa [List.filter_cons, h] using ih
    · simpa [List.filter_cons, h, tget] using ih

theorem tget_filter_ne {α : Type} (t : Tbl α) {k i : Nat} (h : i ≠ k) (d : α) : tget (t.filter fun e => e.1 ≠ k) i d = tget t i d := by
  induction t with
  | nil => rfl
  | cons e r ih =>
    by_cases h' : e.1 = k
    · have hk : ¬ k = i := fun e => h e.symm
      have : ¬ e.1 = i := by rw [h']; exact hk
      simpa [List.filter_cons, h', tget, this, hk] using ih
    · rw [List.filter_cons_of_pos (by simpa using h')]
      simp only [tget]
      rw [ih]

/-- A table reads what was written to it. -/
@[simp] theorem tget_tput_same {α : Type} [DecidableEq α] (t : Tbl α) (k : Nat) (v d : α) : tget (tput t k v d) k d = v := by
  unfold tput
  split
  · rename_i h
    rw [tget_filter_same, h]
  · exact tget_tins_same t k v d

/-- A write leaves every other entry as it was. -/
theorem tget_tput_ne {α : Type} [DecidableEq α] (t : Tbl α) {k i : Nat} (h : i ≠ k) (v d e : α) : tget (tput t k v d) i e = tget t i e := by
  unfold tput
  split
  · exact tget_filter_ne t h e
  · exact tget_tins_ne t h v e

@[simp] theorem tget_tmod_same {α : Type} [DecidableEq α] (t : Tbl α) (k : Nat) (d : α) (f : α → α) : tget (tmod t k d f) k d = f (tget t k d) :=
  tget_tput_same t k _ d

theorem tget_tmod_ne {α : Type} [DecidableEq α] (t : Tbl α) {k i : Nat} (h : i ≠ k) (d e : α) (f : α → α) : tget (tmod t k d f) i e = tget t i e :=
  tget_tput_ne t h _ d e

/-! ### The canonical form -/

theorem tblFrom_mono {α : Type} [DecidableEq α] {d : α} {t : Tbl α} {a b : Nat} (h : a ≤ b) (ht : tblFrom d b t = true) : tblFrom d a t = true := by
  cases t with
  | nil => rfl
  | cons e r =>
    simp only [tblFrom, Bool.and_eq_true, decide_eq_true_eq] at ht ⊢
    exact ⟨⟨Nat.le_trans h ht.1.1, ht.1.2⟩, ht.2⟩

theorem tblFrom_filter {α : Type} [DecidableEq α] {d : α} {t : Tbl α} (p : Nat × α → Bool) : ∀ {a : Nat}, tblFrom d a t = true → tblFrom d a (t.filter p) = true := by
  induction t with
  | nil => intro a _; rfl
  | cons e r ih =>
    intro a h
    simp only [tblFrom, Bool.and_eq_true, decide_eq_true_eq] at h
    by_cases hp : p e = true
    · simp only [List.filter_cons, hp, if_true, tblFrom, Bool.and_eq_true, decide_eq_true_eq]
      exact ⟨h.1, ih h.2⟩
    · simp only [List.filter_cons, hp]
      exact tblFrom_mono (Nat.le_succ_of_le h.1.1) (ih h.2)

theorem tblFrom_tins {α : Type} [DecidableEq α] {d : α} {t : Tbl α} {k : Nat} {v : α} (hv : v ≠ d) :
    ∀ {a : Nat}, a ≤ k → tblFrom d a t = true → tblFrom d a (tins t k v) = true := by
  induction t with
  | nil => intro a ha _; simp [tins, tblFrom, ha, hv]
  | cons e r ih =>
    intro a ha h
    obtain ⟨j, w⟩ := e
    simp only [tblFrom, Bool.and_eq_true, decide_eq_true_eq] at h
    unfold tins
    split
    · rename_i hk
      simp only [tblFrom, Bool.and_eq_true, decide_eq_true_eq]
      exact ⟨⟨ha, hv⟩, ⟨hk, h.1.2⟩, h.2⟩
    · split
      · rename_i hk
        subst hk
        simp only [tblFrom, Bool.and_eq_true, decide_eq_true_eq]
        exact ⟨⟨ha, hv⟩, h.2⟩
      · simp only [tblFrom, Bool.and_eq_true, decide_eq_true_eq]
        exact ⟨⟨h.1.1, h.1.2⟩, ih (by omega) h.2⟩

/-- A write keeps the canonical form. -/
theorem tblFrom_tput {α : Type} [DecidableEq α] {d : α} {t : Tbl α} (k : Nat) (v : α) (h : tblFrom d 0 t = true) : tblFrom d 0 (tput t k v d) = true := by
  unfold tput
  split
  · exact tblFrom_filter _ h
  · rename_i hv
    exact tblFrom_tins hv (Nat.zero_le k) h

theorem tblFrom_tmod {α : Type} [DecidableEq α] {d : α} {t : Tbl α} (k : Nat) (f : α → α) (h : tblFrom d 0 t = true) : tblFrom d 0 (tmod t k d f) = true :=
  tblFrom_tput k _ h

theorem tblFrom_tdrop {α : Type} [DecidableEq α] {d : α} {t : Tbl α} (lo hi : Nat) (h : tblFrom d 0 t = true) : tblFrom d 0 (tdrop t lo hi) = true :=
  tblFrom_filter _ h

end Sys2Proof.Machine
end

