-- ==== Sys2Proof/Laws/Memory.lean ====
section
/-! SUPPORT. Memory: what a store writes and leaves, and that every memory operation keeps the canonical form. -/

namespace Sys2Proof.Machine

/-! ### Bytes -/

theorem rdB_setErr (m : Mem) (w : Nat) (e : BitVec 288) (a : Nat) : rdB (setErr m w e) a = rdB m a := rfl

/-- Bytes before and after a stretch that is written keep their value. -/
theorem rdB_wrRaw_out (m : Mem) (a : Nat) (d : List Byte) (x : Nat) (h : x < a ∨ a + d.length ≤ x) : rdB (wrRaw m a d) x = rdB m x := by
  induction d generalizing m a with
  | nil => rfl
  | cons b r ih =>
    simp only [List.length_cons] at h
    unfold wrRaw
    rw [ih _ (a + 1) (by omega)]
    exact tget_tput_ne m.cells (by omega) b 0 0

/-- The bytes of a stretch that is written read as written. -/
theorem rdB_wrRaw_in (m : Mem) (a : Nat) (d : List Byte) (i : Nat) (h : i < d.length) : rdB (wrRaw m a d) (a + i) = d[i] := by
  induction d generalizing m a i with
  | nil => exact absurd h (Nat.not_lt_zero i)
  | cons b r ih =>
    unfold wrRaw
    cases i with
    | zero =>
      rw [rdB_wrRaw_out _ (a + 1) r (a + 0) (by omega)]
      exact tget_tput_same m.cells a b 0
    | succ i =>
      have e : a + (i + 1) = a + 1 + i := by omega
      simp only [List.length_cons] at h
      rw [e, ih _ (a + 1) i (by omega), List.getElem_cons_succ]

theorem wrRaw_err (m : Mem) (a : Nat) (d : List Byte) : (wrRaw m a d).err = m.err := by
  induction d generalizing m a with
  | nil => rfl
  | cons b r ih => unfold wrRaw; rw [ih]

/-! ### The canonical form -/

theorem wf_setErr {m : Mem} (w : Nat) (e : BitVec 288) (h : Memory.wf m = true) : Memory.wf (setErr m w e) = true := by
  simp only [Memory.wf, Bool.and_eq_true] at h ⊢
  exact ⟨h.1, tblFrom_tput w e h.2⟩

theorem wf_wrRaw {m : Mem} (a : Nat) (d : List Byte) (h : Memory.wf m = true) : Memory.wf (wrRaw m a d) = true := by
  induction d generalizing m a with
  | nil => exact h
  | cons b r ih =>
    unfold wrRaw
    apply ih
    simp only [Memory.wf, Bool.and_eq_true] at h ⊢
    exact ⟨tblFrom_tput a b h.1, h.2⟩

/-- Setting the errors of a list of words keeps the canonical form. -/
theorem wf_foldl_setErr {β : Type} (l : List β) (f : β → Nat) (g : β → BitVec 288) {m : Mem} (h : Memory.wf m = true) :
    Memory.wf (l.foldl (fun m w => setErr m (f w) (g w)) m) = true := by
  induction l generalizing m with
  | nil => exact h
  | cons b r ih => exact ih (wf_setErr _ _ h)

theorem wf_drop {m : Mem} (a b c d : Nat) (h : Memory.wf m = true) :
    Memory.wf { m with cells := tdrop m.cells a b, err := tdrop m.err c d } = true := by
  simp only [Memory.wf, Bool.and_eq_true] at h ⊢
  exact ⟨tblFrom_tdrop a b h.1, tblFrom_tdrop c d h.2⟩

theorem wf_memBits {m : Mem} (ba w v : Nat) (h : Memory.wf m = true) : Memory.wf (memBits m ba w v) = true := by
  unfold memBits
  dsimp only
  split
  · exact h
  · exact wf_wrRaw _ _ h

/-! ### Stores -/

/-- The counters of errors are no memory. -/
theorem countCe_mem (s : State) (w : Nat) : (countCe s w).mem = s.mem := by
  unfold countCe noteRow
  split <;> rfl

theorem countUe_mem (s : State) (w : Nat) : (countUe s w).mem = s.mem := by
  unfold countUe noteRow
  dsimp only
  split
  · rfl
  · split <;> rfl

theorem fire_mem (s : State) (v : Nat) : (fire s v).mem = s.mem := by
  unfold fire
  dsimp only
  split
  · rfl
  · split <;> rfl

/-- An event of the event log changes no memory. -/
theorem raise_mem (s : State) (det level v a loc : Nat) (j : Option (Nat × Nat × Nat × W64)) : (raise s det level v a loc j).mem = s.mem := by
  unfold raise
  dsimp only
  split
  · exact fire_mem _ _
  · rfl

theorem noteUe_mem (s : State) (w a : Nat) (j : Option (Nat × Nat × Nat × W64)) : (noteUe s w a j).mem = s.mem := by
  unfold noteUe
  split <;> exact raise_mem ..

theorem enterHold_mem (s : State) : (enterHold s).mem = s.mem := by
  unfold enterHold setState hifEvent fire
  dsimp only
  split
  · rfl
  · split
    · rfl
    · split
      · rfl
      · split <;> rfl

/-- Memory differs at most in its error patterns, and keeps the canonical form. -/
def ErrsOnly (m n : Mem) : Prop := (∀ x, rdB n x = rdB m x) ∧ (Memory.wf m = true → Memory.wf n = true)

theorem ErrsOnly.refl (m : Mem) : ErrsOnly m m := ⟨fun _ => rfl, id⟩

theorem ErrsOnly.of_eq {m n : Mem} (h : n = m) : ErrsOnly m n := h ▸ .refl m

theorem ErrsOnly.trans {a b c : Mem} (h : ErrsOnly a b) (g : ErrsOnly b c) : ErrsOnly a c :=
  ⟨fun x => (g.1 x).trans (h.1 x), fun w => g.2 (h.2 w)⟩

theorem errsOnly_setErr (m : Mem) (w : Nat) (e : BitVec 288) : ErrsOnly m (setErr m w e) := ⟨fun _ => rfl, wf_setErr w e⟩

/-- Steps that change only errors do so one after the other. -/
theorem errsOnly_foldl {β : Type} (f : State → β → State) (hf : ∀ s b, ErrsOnly s.mem (f s b).mem) (l : List β) (s : State) :
    ErrsOnly s.mem (l.foldl f s).mem := by
  induction l generalizing s with
  | nil => exact .refl _
  | cons b r ih => exact (hf s b).trans (ih (f s b))

theorem errsOnly_setErrs {β : Type} (f : β → Nat) (g : β → BitVec 288) (l : List β) (m : Mem) :
    ErrsOnly m (l.foldl (fun m w => setErr m (f w) (g w)) m) := by
  induction l generalizing m with
  | nil => exact .refl m
  | cons b r ih => exact (errsOnly_setErr m _ _).trans (ih _)

/-- Steps that leave memory leave it one after the other. -/
theorem foldl_mem {β : Type} (f : State → β → State) (hf : ∀ s b, (f s b).mem = s.mem) (l : List β) (s : State) : (l.foldl f s).mem = s.mem := by
  induction l generalizing s with
  | nil => rfl
  | cons b r ih => rw [List.foldl_cons, ih, hf]

theorem addBw_mem (s : State) (k c n : Nat) : (addBw s k c n).mem = s.mem := by
  unfold addBw
  split <;> rfl

theorem addStk_mem (s : State) (k : Nat) (w : Bool) (n : Nat) : (addStk s k w n).mem = s.mem := by
  unfold addStk
  split <;> rfl

theorem addSomeStk_mem (s : State) (w : Bool) (n : Nat) : (addSomeStk s w n).mem = s.mem := addStk_mem ..

theorem tally_mem (s : State) (c : Nat) (w : Bool) (a n : Nat) : (tally s c w a n).mem = s.mem := by
  unfold tally
  split
  · rfl
  · split
    · exact foldl_mem _ (fun s _ => addBw_mem s ..) _ s
    · split
      · exact addStk_mem ..
      · rfl

/-- A read that meets a word changes at most its error pattern. -/
theorem meetBase_mem (s : State) (w : Nat) : ErrsOnly s.mem (meetBase s w).mem := by
  unfold meetBase
  dsimp only
  split
  · exact .refl _
  · split
    · exact (errsOnly_setErr s.mem w 0).trans (.of_eq (countCe_mem _ w))
    · split
      · split
        · exact .of_eq ((enterHold_mem _).trans (countUe_mem s w))
        · rw [countUe_mem]
          exact errsOnly_setErr ..
      · rw [countUe_mem]
        exact errsOnly_setErr ..

/-- Copying a page, and the first write to it, change at most error patterns. -/
theorem copyPage_mem (s : State) (jr : JobRec) (p : Nat) : ErrsOnly s.mem (copyPage s jr p).mem := by
  have h (l : List Nat) : ErrsOnly s.mem (l.foldl (fun s w => meetBase (if badWord s.mem w then noteUe s w 0 else s) w) s).mem := by
    refine errsOnly_foldl _ (fun s w => .trans (.of_eq ?_) (meetBase_mem _ w)) l s
    split
    · exact noteUe_mem ..
    · rfl
  unfold copyPage
  dsimp only
  split
  · rw [addSomeStk_mem, tally_mem]
    exact h _
  · rw [addStk_mem, addStk_mem]
    exact h _

theorem touch_mem (s : State) (a : Nat) : ErrsOnly s.mem (touch s a).mem := by
  unfold touch
  split
  · dsimp only
    split
    · exact .refl _
    · exact copyPage_mem ..
  · exact .refl _

theorem touchAll_mem (s : State) (a n : Nat) : ErrsOnly s.mem (touchAll s a n).mem := by
  unfold touchAll
  split
  · exact .refl _
  · exact errsOnly_foldl _ (fun s _ => touch_mem s _) _ s

/-- Meeting a word, with the copy of its page and its event, changes at most error patterns. -/
theorem meetQuiet_mem (s : State) (w : Nat) : ErrsOnly s.mem (meetQuiet s w).mem := by
  unfold meetQuiet
  split
  · exact (touch_mem s _).trans (meetBase_mem _ w)
  · exact meetBase_mem s w

theorem meetWord_mem (s : State) (w : Nat) : ErrsOnly s.mem (meetWord s w).mem := by
  unfold meetWord
  split
  · exact .trans (.of_eq (noteUe_mem ..)) (meetQuiet_mem _ w)
  · exact meetQuiet_mem s w

/-- Settling the errors of a store's words changes no byte and keeps the canonical form. -/
theorem storeErrs_mem (s : State) (a n : Nat) : ErrsOnly s.mem (storeErrs s a n).mem := by
  refine errsOnly_foldl _ (fun s w => ?_) _ s
  split
  · exact errsOnly_setErr ..
  · split
    · exact .refl _
    · exact meetWord_mem s w

/-- A store leaves every byte outside its own alone. -/
theorem rdB_store_out (s : State) (a : Nat) (d : List Byte) (x : Nat) (h : x < a ∨ a + d.length ≤ x) : rdB (store s a d).mem x = rdB s.mem x := by
  unfold store
  split
  · rfl
  · split
    · rfl
    · dsimp only
      rw [rdB_wrRaw_out _ _ _ _ h, (storeErrs_mem _ a d.length).1, (touchAll_mem s a d.length).1]

/-- A store whose address is not lost writes its bytes (R297). -/
theorem rdB_store_in (s : State) (a : Nat) (d : List Byte) (i : Nat) (h : i < d.length) (hl : addrLost s a = false) :
    rdB (store s a d).mem (a + i) = d[i] := by
  have hd : d ≠ [] := by intro e; rw [e] at h; exact absurd h (Nat.not_lt_zero i)
  unfold store
  rw [if_neg hd, if_neg (by simp [hl])]
  dsimp only
  rw [rdB_wrRaw_in _ _ _ _ h]

/-- A store keeps the canonical form. -/
theorem wf_store {s : State} (a : Nat) (d : List Byte) (h : Memory.wf s.mem = true) : Memory.wf (store s a d).mem = true := by
  unfold store
  split
  · exact h
  · split
    · exact h
    · dsimp only
      exact wf_wrRaw a d ((storeErrs_mem _ a d.length).2 ((touchAll_mem s a d.length).2 h))

/-- Poisoning changes no byte and keeps the canonical form. -/
theorem poison_mem (s : State) (a n : Nat) : ErrsOnly s.mem (poison s a n).mem :=
  (touchAll_mem s a n).trans (errsOnly_setErrs (fun w => w) (fun w => poisonPat ((touchAll s a n).mem.hbmAt w)) (wordsOf a n) _)

theorem rdB_poison (s : State) (a n x : Nat) : rdB (poison s a n).mem x = rdB s.mem x := (poison_mem s a n).1 x

theorem wf_poison {s : State} (a n : Nat) (h : Memory.wf s.mem = true) : Memory.wf (poison s a n).mem = true := (poison_mem s a n).2 h

/-- A store of bits leaves every byte outside those it reaches alone. -/
theorem rdB_storeBits_out (s : State) (ba w v x : Nat) (h : w = 0 ∨ x < ba / 8 ∨ (ba + w - 1) / 8 < x) :
    rdB (storeBits s ba w v).mem x = rdB s.mem x := by
  unfold storeBits
  extract_lets a n old sh new
  split
  · rfl
  · rename_i hw
    have hl : ∀ n y, (natLe n y).length = n := by
      intro n
      induction n with
      | zero => intro y; rfl
      | succ n ih => intro y; simp [natLe, ih]
    apply rdB_store_out
    rw [hl]
    have : ba / 8 ≤ (ba + w - 1) / 8 := Nat.div_le_div_right (by omega)
    omega

theorem wf_storeBits {s : State} (ba w v : Nat) (h : Memory.wf s.mem = true) : Memory.wf (storeBits s ba w v).mem = true := by
  unfold storeBits
  split
  · exact h
  · exact wf_store _ _ h

/-- Clearing errors changes no byte and keeps the canonical form. -/
theorem rdB_clearWords (s : State) (f : Nat → Bool) (x : Nat) : rdB (clearWords s f).mem x = rdB s.mem x := by
  unfold clearWords
  generalize (s.mem.err.map (·.1)).filter f = l
  generalize s.mem = m
  induction l generalizing m with
  | nil => rfl
  | cons b r ih => exact ih _

theorem wf_clearWords {s : State} (f : Nat → Bool) (h : Memory.wf s.mem = true) : Memory.wf (clearWords s f).mem = true :=
  wf_foldl_setErr _ (fun w => w) (fun _ => 0) h

theorem wf_storeAll {s : State} (l : List (Nat × Nat × Nat)) (h : Memory.wf s.mem = true) : Memory.wf (storeAll s l).mem = true := by
  unfold storeAll
  have h := wf_clearWords (fun w => bitsOn l w = 256) h
  revert h
  generalize clearWords s (fun w => bitsOn l w = 256) = u
  induction l generalizing u with
  | nil => exact fun h => h
  | cons b r ih => exact fun h => ih _ (wf_storeBits _ _ _ h)

/-- A list of bit writes leaves every byte outside those it reaches alone. -/
theorem rdB_storeAll_out (s : State) (l : List (Nat × Nat × Nat)) (x : Nat)
    (h : ∀ w ∈ l, w.2.1 = 0 ∨ x < w.1 / 8 ∨ (w.1 + w.2.1 - 1) / 8 < x) : rdB (storeAll s l).mem x = rdB s.mem x := by
  unfold storeAll
  rw [← rdB_clearWords s (fun w => bitsOn l w = 256)]
  generalize clearWords s (fun w => bitsOn l w = 256) = u
  induction l generalizing u with
  | nil => rfl
  | cons b r ih =>
    rw [List.foldl_cons, ih (fun w hw => h w (List.mem_cons_of_mem b hw))]
    exact rdB_storeBits_out u b.1 b.2.1 b.2.2 x (h b List.mem_cons_self)

end Sys2Proof.Machine
end

