-- ==== Sys2Proof/Laws/State.lean ====
section
/-! SUPPORT. The fields of State under each shared update: one lemma per field that the update leaves, true by definition; and
what an entry reads as after its own update and after another one. -/

namespace Sys2Proof.Machine

/-! ### withQueue -/

@[simp] theorem withQueue_clock (s : State) (q : List Instr) : (s.withQueue q).clock = s.clock := rfl
@[simp] theorem withQueue_free (s : State) (q : List Instr) : (s.withQueue q).free = s.free := rfl
@[simp] theorem withQueue_mem (s : State) (q : List Instr) : (s.withQueue q).mem = s.mem := rfl
@[simp] theorem withQueue_cmd (s : State) (q : List Instr) : (s.withQueue q).cmd = s.cmd := rfl
@[simp] theorem withQueue_til (s : State) (q : List Instr) : (s.withQueue q).til = s.til := rfl
@[simp] theorem withQueue_ser (s : State) (q : List Instr) : (s.withQueue q).ser = s.ser := rfl
@[simp] theorem withQueue_hbm (s : State) (q : List Instr) : (s.withQueue q).hbm = s.hbm := rfl
@[simp] theorem withQueue_lnk (s : State) (q : List Instr) : (s.withQueue q).lnk = s.lnk := rfl
@[simp] theorem withQueue_evd (s : State) (q : List Instr) : (s.withQueue q).evd = s.evd := rfl
@[simp] theorem withQueue_ras (s : State) (q : List Instr) : (s.withQueue q).ras = s.ras := rfl
@[simp] theorem withQueue_esc (s : State) (q : List Instr) : (s.withQueue q).esc = s.esc := rfl
@[simp] theorem withQueue_job (s : State) (q : List Instr) : (s.withQueue q).job = s.job := rfl
@[simp] theorem withQueue_pwr (s : State) (q : List Instr) : (s.withQueue q).pwr = s.pwr := rfl
@[simp] theorem withQueue_clk (s : State) (q : List Instr) : (s.withQueue q).clk = s.clk := rfl
@[simp] theorem withQueue_cfg (s : State) (q : List Instr) : (s.withQueue q).cfg = s.cfg := rfl
@[simp] theorem withQueue_flash (s : State) (q : List Instr) : (s.withQueue q).flash = s.flash := rfl
@[simp] theorem withQueue_fwu (s : State) (q : List Instr) : (s.withQueue q).fwu = s.fwu := rfl
@[simp] theorem withQueue_sec (s : State) (q : List Instr) : (s.withQueue q).sec = s.sec := rfl
@[simp] theorem withQueue_hif (s : State) (q : List Instr) : (s.withQueue q).hif = s.hif := rfl
@[simp] theorem withQueue_pldm (s : State) (q : List Instr) : (s.withQueue q).pldm = s.pldm := rfl
@[simp] theorem withQueue_lm0 (s : State) (q : List Instr) : (s.withQueue q).lm0 = s.lm0 := rfl
@[simp] theorem withQueue_lm1 (s : State) (q : List Instr) : (s.withQueue q).lm1 = s.lm1 := rfl
@[simp] theorem withQueue_selH (s : State) (q : List Instr) : (s.withQueue q).selH = s.selH := rfl
@[simp] theorem withQueue_selM (s : State) (q : List Instr) : (s.withQueue q).selM = s.selM := rfl
@[simp] theorem withQueue_out (s : State) (q : List Instr) : (s.withQueue q).out = s.out := rfl

/-! ### modStrm -/

@[simp] theorem modStrm_pending (s : State) (n : Nat) (f : Stream → Stream) : (modStrm s n f).pending = s.pending := rfl
@[simp] theorem modStrm_clock (s : State) (n : Nat) (f : Stream → Stream) : (modStrm s n f).clock = s.clock := rfl
@[simp] theorem modStrm_free (s : State) (n : Nat) (f : Stream → Stream) : (modStrm s n f).free = s.free := rfl
@[simp] theorem modStrm_mem (s : State) (n : Nat) (f : Stream → Stream) : (modStrm s n f).mem = s.mem := rfl
@[simp] theorem modStrm_til (s : State) (n : Nat) (f : Stream → Stream) : (modStrm s n f).til = s.til := rfl
@[simp] theorem modStrm_ser (s : State) (n : Nat) (f : Stream → Stream) : (modStrm s n f).ser = s.ser := rfl
@[simp] theorem modStrm_hbm (s : State) (n : Nat) (f : Stream → Stream) : (modStrm s n f).hbm = s.hbm := rfl
@[simp] theorem modStrm_lnk (s : State) (n : Nat) (f : Stream → Stream) : (modStrm s n f).lnk = s.lnk := rfl
@[simp] theorem modStrm_evd (s : State) (n : Nat) (f : Stream → Stream) : (modStrm s n f).evd = s.evd := rfl
@[simp] theorem modStrm_ras (s : State) (n : Nat) (f : Stream → Stream) : (modStrm s n f).ras = s.ras := rfl
@[simp] theorem modStrm_esc (s : State) (n : Nat) (f : Stream → Stream) : (modStrm s n f).esc = s.esc := rfl
@[simp] theorem modStrm_job (s : State) (n : Nat) (f : Stream → Stream) : (modStrm s n f).job = s.job := rfl
@[simp] theorem modStrm_pwr (s : State) (n : Nat) (f : Stream → Stream) : (modStrm s n f).pwr = s.pwr := rfl
@[simp] theorem modStrm_clk (s : State) (n : Nat) (f : Stream → Stream) : (modStrm s n f).clk = s.clk := rfl
@[simp] theorem modStrm_cfg (s : State) (n : Nat) (f : Stream → Stream) : (modStrm s n f).cfg = s.cfg := rfl
@[simp] theorem modStrm_flash (s : State) (n : Nat) (f : Stream → Stream) : (modStrm s n f).flash = s.flash := rfl
@[simp] theorem modStrm_fwu (s : State) (n : Nat) (f : Stream → Stream) : (modStrm s n f).fwu = s.fwu := rfl
@[simp] theorem modStrm_sec (s : State) (n : Nat) (f : Stream → Stream) : (modStrm s n f).sec = s.sec := rfl
@[simp] theorem modStrm_hif (s : State) (n : Nat) (f : Stream → Stream) : (modStrm s n f).hif = s.hif := rfl
@[simp] theorem modStrm_pldm (s : State) (n : Nat) (f : Stream → Stream) : (modStrm s n f).pldm = s.pldm := rfl
@[simp] theorem modStrm_lm0 (s : State) (n : Nat) (f : Stream → Stream) : (modStrm s n f).lm0 = s.lm0 := rfl
@[simp] theorem modStrm_lm1 (s : State) (n : Nat) (f : Stream → Stream) : (modStrm s n f).lm1 = s.lm1 := rfl
@[simp] theorem modStrm_selH (s : State) (n : Nat) (f : Stream → Stream) : (modStrm s n f).selH = s.selH := rfl
@[simp] theorem modStrm_selM (s : State) (n : Nat) (f : Stream → Stream) : (modStrm s n f).selM = s.selM := rfl
@[simp] theorem modStrm_out (s : State) (n : Nat) (f : Stream → Stream) : (modStrm s n f).out = s.out := rfl

/-! ### modRing -/

@[simp] theorem modRing_pending (s : State) (n : Nat) (f : Ring → Ring) : (modRing s n f).pending = s.pending := rfl
@[simp] theorem modRing_clock (s : State) (n : Nat) (f : Ring → Ring) : (modRing s n f).clock = s.clock := rfl
@[simp] theorem modRing_free (s : State) (n : Nat) (f : Ring → Ring) : (modRing s n f).free = s.free := rfl
@[simp] theorem modRing_mem (s : State) (n : Nat) (f : Ring → Ring) : (modRing s n f).mem = s.mem := rfl
@[simp] theorem modRing_til (s : State) (n : Nat) (f : Ring → Ring) : (modRing s n f).til = s.til := rfl
@[simp] theorem modRing_ser (s : State) (n : Nat) (f : Ring → Ring) : (modRing s n f).ser = s.ser := rfl
@[simp] theorem modRing_hbm (s : State) (n : Nat) (f : Ring → Ring) : (modRing s n f).hbm = s.hbm := rfl
@[simp] theorem modRing_lnk (s : State) (n : Nat) (f : Ring → Ring) : (modRing s n f).lnk = s.lnk := rfl
@[simp] theorem modRing_evd (s : State) (n : Nat) (f : Ring → Ring) : (modRing s n f).evd = s.evd := rfl
@[simp] theorem modRing_ras (s : State) (n : Nat) (f : Ring → Ring) : (modRing s n f).ras = s.ras := rfl
@[simp] theorem modRing_esc (s : State) (n : Nat) (f : Ring → Ring) : (modRing s n f).esc = s.esc := rfl
@[simp] theorem modRing_job (s : State) (n : Nat) (f : Ring → Ring) : (modRing s n f).job = s.job := rfl
@[simp] theorem modRing_pwr (s : State) (n : Nat) (f : Ring → Ring) : (modRing s n f).pwr = s.pwr := rfl
@[simp] theorem modRing_clk (s : State) (n : Nat) (f : Ring → Ring) : (modRing s n f).clk = s.clk := rfl
@[simp] theorem modRing_cfg (s : State) (n : Nat) (f : Ring → Ring) : (modRing s n f).cfg = s.cfg := rfl
@[simp] theorem modRing_flash (s : State) (n : Nat) (f : Ring → Ring) : (modRing s n f).flash = s.flash := rfl
@[simp] theorem modRing_fwu (s : State) (n : Nat) (f : Ring → Ring) : (modRing s n f).fwu = s.fwu := rfl
@[simp] theorem modRing_sec (s : State) (n : Nat) (f : Ring → Ring) : (modRing s n f).sec = s.sec := rfl
@[simp] theorem modRing_hif (s : State) (n : Nat) (f : Ring → Ring) : (modRing s n f).hif = s.hif := rfl
@[simp] theorem modRing_pldm (s : State) (n : Nat) (f : Ring → Ring) : (modRing s n f).pldm = s.pldm := rfl
@[simp] theorem modRing_lm0 (s : State) (n : Nat) (f : Ring → Ring) : (modRing s n f).lm0 = s.lm0 := rfl
@[simp] theorem modRing_lm1 (s : State) (n : Nat) (f : Ring → Ring) : (modRing s n f).lm1 = s.lm1 := rfl
@[simp] theorem modRing_selH (s : State) (n : Nat) (f : Ring → Ring) : (modRing s n f).selH = s.selH := rfl
@[simp] theorem modRing_selM (s : State) (n : Nat) (f : Ring → Ring) : (modRing s n f).selM = s.selM := rfl
@[simp] theorem modRing_out (s : State) (n : Nat) (f : Ring → Ring) : (modRing s n f).out = s.out := rfl

/-! ### modClu -/

@[simp] theorem modClu_pending (s : State) (n : Nat) (f : Clu → Clu) : (modClu s n f).pending = s.pending := rfl
@[simp] theorem modClu_clock (s : State) (n : Nat) (f : Clu → Clu) : (modClu s n f).clock = s.clock := rfl
@[simp] theorem modClu_free (s : State) (n : Nat) (f : Clu → Clu) : (modClu s n f).free = s.free := rfl
@[simp] theorem modClu_mem (s : State) (n : Nat) (f : Clu → Clu) : (modClu s n f).mem = s.mem := rfl
@[simp] theorem modClu_cmd (s : State) (n : Nat) (f : Clu → Clu) : (modClu s n f).cmd = s.cmd := rfl
@[simp] theorem modClu_til (s : State) (n : Nat) (f : Clu → Clu) : (modClu s n f).til = s.til := rfl
@[simp] theorem modClu_ser (s : State) (n : Nat) (f : Clu → Clu) : (modClu s n f).ser = s.ser := rfl
@[simp] theorem modClu_hbm (s : State) (n : Nat) (f : Clu → Clu) : (modClu s n f).hbm = s.hbm := rfl
@[simp] theorem modClu_lnk (s : State) (n : Nat) (f : Clu → Clu) : (modClu s n f).lnk = s.lnk := rfl
@[simp] theorem modClu_evd (s : State) (n : Nat) (f : Clu → Clu) : (modClu s n f).evd = s.evd := rfl
@[simp] theorem modClu_esc (s : State) (n : Nat) (f : Clu → Clu) : (modClu s n f).esc = s.esc := rfl
@[simp] theorem modClu_job (s : State) (n : Nat) (f : Clu → Clu) : (modClu s n f).job = s.job := rfl
@[simp] theorem modClu_pwr (s : State) (n : Nat) (f : Clu → Clu) : (modClu s n f).pwr = s.pwr := rfl
@[simp] theorem modClu_clk (s : State) (n : Nat) (f : Clu → Clu) : (modClu s n f).clk = s.clk := rfl
@[simp] theorem modClu_cfg (s : State) (n : Nat) (f : Clu → Clu) : (modClu s n f).cfg = s.cfg := rfl
@[simp] theorem modClu_flash (s : State) (n : Nat) (f : Clu → Clu) : (modClu s n f).flash = s.flash := rfl
@[simp] theorem modClu_fwu (s : State) (n : Nat) (f : Clu → Clu) : (modClu s n f).fwu = s.fwu := rfl
@[simp] theorem modClu_sec (s : State) (n : Nat) (f : Clu → Clu) : (modClu s n f).sec = s.sec := rfl
@[simp] theorem modClu_hif (s : State) (n : Nat) (f : Clu → Clu) : (modClu s n f).hif = s.hif := rfl
@[simp] theorem modClu_pldm (s : State) (n : Nat) (f : Clu → Clu) : (modClu s n f).pldm = s.pldm := rfl
@[simp] theorem modClu_lm0 (s : State) (n : Nat) (f : Clu → Clu) : (modClu s n f).lm0 = s.lm0 := rfl
@[simp] theorem modClu_lm1 (s : State) (n : Nat) (f : Clu → Clu) : (modClu s n f).lm1 = s.lm1 := rfl
@[simp] theorem modClu_selH (s : State) (n : Nat) (f : Clu → Clu) : (modClu s n f).selH = s.selH := rfl
@[simp] theorem modClu_selM (s : State) (n : Nat) (f : Clu → Clu) : (modClu s n f).selM = s.selM := rfl
@[simp] theorem modClu_out (s : State) (n : Nat) (f : Clu → Clu) : (modClu s n f).out = s.out := rfl

/-! ### modRas -/

@[simp] theorem modRas_pending (s : State) (n : Nat) (f : TileRas → TileRas) : (modRas s n f).pending = s.pending := rfl
@[simp] theorem modRas_clock (s : State) (n : Nat) (f : TileRas → TileRas) : (modRas s n f).clock = s.clock := rfl
@[simp] theorem modRas_free (s : State) (n : Nat) (f : TileRas → TileRas) : (modRas s n f).free = s.free := rfl
@[simp] theorem modRas_mem (s : State) (n : Nat) (f : TileRas → TileRas) : (modRas s n f).mem = s.mem := rfl
@[simp] theorem modRas_cmd (s : State) (n : Nat) (f : TileRas → TileRas) : (modRas s n f).cmd = s.cmd := rfl
@[simp] theorem modRas_til (s : State) (n : Nat) (f : TileRas → TileRas) : (modRas s n f).til = s.til := rfl
@[simp] theorem modRas_ser (s : State) (n : Nat) (f : TileRas → TileRas) : (modRas s n f).ser = s.ser := rfl
@[simp] theorem modRas_hbm (s : State) (n : Nat) (f : TileRas → TileRas) : (modRas s n f).hbm = s.hbm := rfl
@[simp] theorem modRas_lnk (s : State) (n : Nat) (f : TileRas → TileRas) : (modRas s n f).lnk = s.lnk := rfl
@[simp] theorem modRas_evd (s : State) (n : Nat) (f : TileRas → TileRas) : (modRas s n f).evd = s.evd := rfl
@[simp] theorem modRas_esc (s : State) (n : Nat) (f : TileRas → TileRas) : (modRas s n f).esc = s.esc := rfl
@[simp] theorem modRas_job (s : State) (n : Nat) (f : TileRas → TileRas) : (modRas s n f).job = s.job := rfl
@[simp] theorem modRas_pwr (s : State) (n : Nat) (f : TileRas → TileRas) : (modRas s n f).pwr = s.pwr := rfl
@[simp] theorem modRas_clk (s : State) (n : Nat) (f : TileRas → TileRas) : (modRas s n f).clk = s.clk := rfl
@[simp] theorem modRas_cfg (s : State) (n : Nat) (f : TileRas → TileRas) : (modRas s n f).cfg = s.cfg := rfl
@[simp] theorem modRas_flash (s : State) (n : Nat) (f : TileRas → TileRas) : (modRas s n f).flash = s.flash := rfl
@[simp] theorem modRas_fwu (s : State) (n : Nat) (f : TileRas → TileRas) : (modRas s n f).fwu = s.fwu := rfl
@[simp] theorem modRas_sec (s : State) (n : Nat) (f : TileRas → TileRas) : (modRas s n f).sec = s.sec := rfl
@[simp] theorem modRas_hif (s : State) (n : Nat) (f : TileRas → TileRas) : (modRas s n f).hif = s.hif := rfl
@[simp] theorem modRas_pldm (s : State) (n : Nat) (f : TileRas → TileRas) : (modRas s n f).pldm = s.pldm := rfl
@[simp] theorem modRas_lm0 (s : State) (n : Nat) (f : TileRas → TileRas) : (modRas s n f).lm0 = s.lm0 := rfl
@[simp] theorem modRas_lm1 (s : State) (n : Nat) (f : TileRas → TileRas) : (modRas s n f).lm1 = s.lm1 := rfl
@[simp] theorem modRas_selH (s : State) (n : Nat) (f : TileRas → TileRas) : (modRas s n f).selH = s.selH := rfl
@[simp] theorem modRas_selM (s : State) (n : Nat) (f : TileRas → TileRas) : (modRas s n f).selM = s.selM := rfl
@[simp] theorem modRas_out (s : State) (n : Nat) (f : TileRas → TileRas) : (modRas s n f).out = s.out := rfl

/-! ### modTile -/

@[simp] theorem modTile_pending (s : State) (n : Nat) (f : Tile → Tile) : (modTile s n f).pending = s.pending := rfl
@[simp] theorem modTile_clock (s : State) (n : Nat) (f : Tile → Tile) : (modTile s n f).clock = s.clock := rfl
@[simp] theorem modTile_free (s : State) (n : Nat) (f : Tile → Tile) : (modTile s n f).free = s.free := rfl
@[simp] theorem modTile_mem (s : State) (n : Nat) (f : Tile → Tile) : (modTile s n f).mem = s.mem := rfl
@[simp] theorem modTile_cmd (s : State) (n : Nat) (f : Tile → Tile) : (modTile s n f).cmd = s.cmd := rfl
@[simp] theorem modTile_ser (s : State) (n : Nat) (f : Tile → Tile) : (modTile s n f).ser = s.ser := rfl
@[simp] theorem modTile_hbm (s : State) (n : Nat) (f : Tile → Tile) : (modTile s n f).hbm = s.hbm := rfl
@[simp] theorem modTile_lnk (s : State) (n : Nat) (f : Tile → Tile) : (modTile s n f).lnk = s.lnk := rfl
@[simp] theorem modTile_evd (s : State) (n : Nat) (f : Tile → Tile) : (modTile s n f).evd = s.evd := rfl
@[simp] theorem modTile_ras (s : State) (n : Nat) (f : Tile → Tile) : (modTile s n f).ras = s.ras := rfl
@[simp] theorem modTile_esc (s : State) (n : Nat) (f : Tile → Tile) : (modTile s n f).esc = s.esc := rfl
@[simp] theorem modTile_job (s : State) (n : Nat) (f : Tile → Tile) : (modTile s n f).job = s.job := rfl
@[simp] theorem modTile_pwr (s : State) (n : Nat) (f : Tile → Tile) : (modTile s n f).pwr = s.pwr := rfl
@[simp] theorem modTile_clk (s : State) (n : Nat) (f : Tile → Tile) : (modTile s n f).clk = s.clk := rfl
@[simp] theorem modTile_cfg (s : State) (n : Nat) (f : Tile → Tile) : (modTile s n f).cfg = s.cfg := rfl
@[simp] theorem modTile_flash (s : State) (n : Nat) (f : Tile → Tile) : (modTile s n f).flash = s.flash := rfl
@[simp] theorem modTile_fwu (s : State) (n : Nat) (f : Tile → Tile) : (modTile s n f).fwu = s.fwu := rfl
@[simp] theorem modTile_sec (s : State) (n : Nat) (f : Tile → Tile) : (modTile s n f).sec = s.sec := rfl
@[simp] theorem modTile_hif (s : State) (n : Nat) (f : Tile → Tile) : (modTile s n f).hif = s.hif := rfl
@[simp] theorem modTile_pldm (s : State) (n : Nat) (f : Tile → Tile) : (modTile s n f).pldm = s.pldm := rfl
@[simp] theorem modTile_lm0 (s : State) (n : Nat) (f : Tile → Tile) : (modTile s n f).lm0 = s.lm0 := rfl
@[simp] theorem modTile_lm1 (s : State) (n : Nat) (f : Tile → Tile) : (modTile s n f).lm1 = s.lm1 := rfl
@[simp] theorem modTile_selH (s : State) (n : Nat) (f : Tile → Tile) : (modTile s n f).selH = s.selH := rfl
@[simp] theorem modTile_selM (s : State) (n : Nat) (f : Tile → Tile) : (modTile s n f).selM = s.selM := rfl
@[simp] theorem modTile_out (s : State) (n : Nat) (f : Tile → Tile) : (modTile s n f).out = s.out := rfl

/-! ### modPort -/

@[simp] theorem modPort_pending (s : State) (n : Nat) (f : Port → Port) : (modPort s n f).pending = s.pending := rfl
@[simp] theorem modPort_clock (s : State) (n : Nat) (f : Port → Port) : (modPort s n f).clock = s.clock := rfl
@[simp] theorem modPort_free (s : State) (n : Nat) (f : Port → Port) : (modPort s n f).free = s.free := rfl
@[simp] theorem modPort_mem (s : State) (n : Nat) (f : Port → Port) : (modPort s n f).mem = s.mem := rfl
@[simp] theorem modPort_cmd (s : State) (n : Nat) (f : Port → Port) : (modPort s n f).cmd = s.cmd := rfl
@[simp] theorem modPort_til (s : State) (n : Nat) (f : Port → Port) : (modPort s n f).til = s.til := rfl
@[simp] theorem modPort_ser (s : State) (n : Nat) (f : Port → Port) : (modPort s n f).ser = s.ser := rfl
@[simp] theorem modPort_hbm (s : State) (n : Nat) (f : Port → Port) : (modPort s n f).hbm = s.hbm := rfl
@[simp] theorem modPort_evd (s : State) (n : Nat) (f : Port → Port) : (modPort s n f).evd = s.evd := rfl
@[simp] theorem modPort_ras (s : State) (n : Nat) (f : Port → Port) : (modPort s n f).ras = s.ras := rfl
@[simp] theorem modPort_esc (s : State) (n : Nat) (f : Port → Port) : (modPort s n f).esc = s.esc := rfl
@[simp] theorem modPort_job (s : State) (n : Nat) (f : Port → Port) : (modPort s n f).job = s.job := rfl
@[simp] theorem modPort_pwr (s : State) (n : Nat) (f : Port → Port) : (modPort s n f).pwr = s.pwr := rfl
@[simp] theorem modPort_clk (s : State) (n : Nat) (f : Port → Port) : (modPort s n f).clk = s.clk := rfl
@[simp] theorem modPort_cfg (s : State) (n : Nat) (f : Port → Port) : (modPort s n f).cfg = s.cfg := rfl
@[simp] theorem modPort_flash (s : State) (n : Nat) (f : Port → Port) : (modPort s n f).flash = s.flash := rfl
@[simp] theorem modPort_fwu (s : State) (n : Nat) (f : Port → Port) : (modPort s n f).fwu = s.fwu := rfl
@[simp] theorem modPort_sec (s : State) (n : Nat) (f : Port → Port) : (modPort s n f).sec = s.sec := rfl
@[simp] theorem modPort_hif (s : State) (n : Nat) (f : Port → Port) : (modPort s n f).hif = s.hif := rfl
@[simp] theorem modPort_pldm (s : State) (n : Nat) (f : Port → Port) : (modPort s n f).pldm = s.pldm := rfl
@[simp] theorem modPort_lm0 (s : State) (n : Nat) (f : Port → Port) : (modPort s n f).lm0 = s.lm0 := rfl
@[simp] theorem modPort_lm1 (s : State) (n : Nat) (f : Port → Port) : (modPort s n f).lm1 = s.lm1 := rfl
@[simp] theorem modPort_selH (s : State) (n : Nat) (f : Port → Port) : (modPort s n f).selH = s.selH := rfl
@[simp] theorem modPort_selM (s : State) (n : Nat) (f : Port → Port) : (modPort s n f).selM = s.selM := rfl
@[simp] theorem modPort_out (s : State) (n : Nat) (f : Port → Port) : (modPort s n f).out = s.out := rfl

/-! ### modPeer -/

@[simp] theorem modPeer_pending (s : State) (n : Nat) (f : Peer → Peer) : (modPeer s n f).pending = s.pending := rfl
@[simp] theorem modPeer_clock (s : State) (n : Nat) (f : Peer → Peer) : (modPeer s n f).clock = s.clock := rfl
@[simp] theorem modPeer_free (s : State) (n : Nat) (f : Peer → Peer) : (modPeer s n f).free = s.free := rfl
@[simp] theorem modPeer_mem (s : State) (n : Nat) (f : Peer → Peer) : (modPeer s n f).mem = s.mem := rfl
@[simp] theorem modPeer_cmd (s : State) (n : Nat) (f : Peer → Peer) : (modPeer s n f).cmd = s.cmd := rfl
@[simp] theorem modPeer_til (s : State) (n : Nat) (f : Peer → Peer) : (modPeer s n f).til = s.til := rfl
@[simp] theorem modPeer_ser (s : State) (n : Nat) (f : Peer → Peer) : (modPeer s n f).ser = s.ser := rfl
@[simp] theorem modPeer_hbm (s : State) (n : Nat) (f : Peer → Peer) : (modPeer s n f).hbm = s.hbm := rfl
@[simp] theorem modPeer_evd (s : State) (n : Nat) (f : Peer → Peer) : (modPeer s n f).evd = s.evd := rfl
@[simp] theorem modPeer_ras (s : State) (n : Nat) (f : Peer → Peer) : (modPeer s n f).ras = s.ras := rfl
@[simp] theorem modPeer_esc (s : State) (n : Nat) (f : Peer → Peer) : (modPeer s n f).esc = s.esc := rfl
@[simp] theorem modPeer_job (s : State) (n : Nat) (f : Peer → Peer) : (modPeer s n f).job = s.job := rfl
@[simp] theorem modPeer_pwr (s : State) (n : Nat) (f : Peer → Peer) : (modPeer s n f).pwr = s.pwr := rfl
@[simp] theorem modPeer_clk (s : State) (n : Nat) (f : Peer → Peer) : (modPeer s n f).clk = s.clk := rfl
@[simp] theorem modPeer_cfg (s : State) (n : Nat) (f : Peer → Peer) : (modPeer s n f).cfg = s.cfg := rfl
@[simp] theorem modPeer_flash (s : State) (n : Nat) (f : Peer → Peer) : (modPeer s n f).flash = s.flash := rfl
@[simp] theorem modPeer_fwu (s : State) (n : Nat) (f : Peer → Peer) : (modPeer s n f).fwu = s.fwu := rfl
@[simp] theorem modPeer_sec (s : State) (n : Nat) (f : Peer → Peer) : (modPeer s n f).sec = s.sec := rfl
@[simp] theorem modPeer_hif (s : State) (n : Nat) (f : Peer → Peer) : (modPeer s n f).hif = s.hif := rfl
@[simp] theorem modPeer_pldm (s : State) (n : Nat) (f : Peer → Peer) : (modPeer s n f).pldm = s.pldm := rfl
@[simp] theorem modPeer_lm0 (s : State) (n : Nat) (f : Peer → Peer) : (modPeer s n f).lm0 = s.lm0 := rfl
@[simp] theorem modPeer_lm1 (s : State) (n : Nat) (f : Peer → Peer) : (modPeer s n f).lm1 = s.lm1 := rfl
@[simp] theorem modPeer_selH (s : State) (n : Nat) (f : Peer → Peer) : (modPeer s n f).selH = s.selH := rfl
@[simp] theorem modPeer_selM (s : State) (n : Nat) (f : Peer → Peer) : (modPeer s n f).selM = s.selM := rfl
@[simp] theorem modPeer_out (s : State) (n : Nat) (f : Peer → Peer) : (modPeer s n f).out = s.out := rfl

/-! ### modGroup -/

@[simp] theorem modGroup_pending (s : State) (n : Nat) (f : Group → Group) : (modGroup s n f).pending = s.pending := rfl
@[simp] theorem modGroup_clock (s : State) (n : Nat) (f : Group → Group) : (modGroup s n f).clock = s.clock := rfl
@[simp] theorem modGroup_free (s : State) (n : Nat) (f : Group → Group) : (modGroup s n f).free = s.free := rfl
@[simp] theorem modGroup_mem (s : State) (n : Nat) (f : Group → Group) : (modGroup s n f).mem = s.mem := rfl
@[simp] theorem modGroup_cmd (s : State) (n : Nat) (f : Group → Group) : (modGroup s n f).cmd = s.cmd := rfl
@[simp] theorem modGroup_til (s : State) (n : Nat) (f : Group → Group) : (modGroup s n f).til = s.til := rfl
@[simp] theorem modGroup_ser (s : State) (n : Nat) (f : Group → Group) : (modGroup s n f).ser = s.ser := rfl
@[simp] theorem modGroup_hbm (s : State) (n : Nat) (f : Group → Group) : (modGroup s n f).hbm = s.hbm := rfl
@[simp] theorem modGroup_evd (s : State) (n : Nat) (f : Group → Group) : (modGroup s n f).evd = s.evd := rfl
@[simp] theorem modGroup_ras (s : State) (n : Nat) (f : Group → Group) : (modGroup s n f).ras = s.ras := rfl
@[simp] theorem modGroup_esc (s : State) (n : Nat) (f : Group → Group) : (modGroup s n f).esc = s.esc := rfl
@[simp] theorem modGroup_job (s : State) (n : Nat) (f : Group → Group) : (modGroup s n f).job = s.job := rfl
@[simp] theorem modGroup_pwr (s : State) (n : Nat) (f : Group → Group) : (modGroup s n f).pwr = s.pwr := rfl
@[simp] theorem modGroup_clk (s : State) (n : Nat) (f : Group → Group) : (modGroup s n f).clk = s.clk := rfl
@[simp] theorem modGroup_cfg (s : State) (n : Nat) (f : Group → Group) : (modGroup s n f).cfg = s.cfg := rfl
@[simp] theorem modGroup_flash (s : State) (n : Nat) (f : Group → Group) : (modGroup s n f).flash = s.flash := rfl
@[simp] theorem modGroup_fwu (s : State) (n : Nat) (f : Group → Group) : (modGroup s n f).fwu = s.fwu := rfl
@[simp] theorem modGroup_sec (s : State) (n : Nat) (f : Group → Group) : (modGroup s n f).sec = s.sec := rfl
@[simp] theorem modGroup_hif (s : State) (n : Nat) (f : Group → Group) : (modGroup s n f).hif = s.hif := rfl
@[simp] theorem modGroup_pldm (s : State) (n : Nat) (f : Group → Group) : (modGroup s n f).pldm = s.pldm := rfl
@[simp] theorem modGroup_lm0 (s : State) (n : Nat) (f : Group → Group) : (modGroup s n f).lm0 = s.lm0 := rfl
@[simp] theorem modGroup_lm1 (s : State) (n : Nat) (f : Group → Group) : (modGroup s n f).lm1 = s.lm1 := rfl
@[simp] theorem modGroup_selH (s : State) (n : Nat) (f : Group → Group) : (modGroup s n f).selH = s.selH := rfl
@[simp] theorem modGroup_selM (s : State) (n : Nat) (f : Group → Group) : (modGroup s n f).selM = s.selM := rfl
@[simp] theorem modGroup_out (s : State) (n : Nat) (f : Group → Group) : (modGroup s n f).out = s.out := rfl

/-! ### reply -/

@[simp] theorem reply_pending (s : State) (r : Reply) : (reply s r).pending = s.pending := rfl
@[simp] theorem reply_clock (s : State) (r : Reply) : (reply s r).clock = s.clock := rfl
@[simp] theorem reply_free (s : State) (r : Reply) : (reply s r).free = s.free := rfl
@[simp] theorem reply_mem (s : State) (r : Reply) : (reply s r).mem = s.mem := rfl
@[simp] theorem reply_cmd (s : State) (r : Reply) : (reply s r).cmd = s.cmd := rfl
@[simp] theorem reply_til (s : State) (r : Reply) : (reply s r).til = s.til := rfl
@[simp] theorem reply_ser (s : State) (r : Reply) : (reply s r).ser = s.ser := rfl
@[simp] theorem reply_hbm (s : State) (r : Reply) : (reply s r).hbm = s.hbm := rfl
@[simp] theorem reply_lnk (s : State) (r : Reply) : (reply s r).lnk = s.lnk := rfl
@[simp] theorem reply_evd (s : State) (r : Reply) : (reply s r).evd = s.evd := rfl
@[simp] theorem reply_ras (s : State) (r : Reply) : (reply s r).ras = s.ras := rfl
@[simp] theorem reply_esc (s : State) (r : Reply) : (reply s r).esc = s.esc := rfl
@[simp] theorem reply_job (s : State) (r : Reply) : (reply s r).job = s.job := rfl
@[simp] theorem reply_pwr (s : State) (r : Reply) : (reply s r).pwr = s.pwr := rfl
@[simp] theorem reply_clk (s : State) (r : Reply) : (reply s r).clk = s.clk := rfl
@[simp] theorem reply_cfg (s : State) (r : Reply) : (reply s r).cfg = s.cfg := rfl
@[simp] theorem reply_flash (s : State) (r : Reply) : (reply s r).flash = s.flash := rfl
@[simp] theorem reply_fwu (s : State) (r : Reply) : (reply s r).fwu = s.fwu := rfl
@[simp] theorem reply_sec (s : State) (r : Reply) : (reply s r).sec = s.sec := rfl
@[simp] theorem reply_hif (s : State) (r : Reply) : (reply s r).hif = s.hif := rfl
@[simp] theorem reply_pldm (s : State) (r : Reply) : (reply s r).pldm = s.pldm := rfl
@[simp] theorem reply_lm0 (s : State) (r : Reply) : (reply s r).lm0 = s.lm0 := rfl
@[simp] theorem reply_lm1 (s : State) (r : Reply) : (reply s r).lm1 = s.lm1 := rfl
@[simp] theorem reply_selH (s : State) (r : Reply) : (reply s r).selH = s.selH := rfl
@[simp] theorem reply_selM (s : State) (r : Reply) : (reply s r).selM = s.selM := rfl

/-! ### hostWrite -/

@[simp] theorem hostWrite_pending (s : State) (a : Nat) (d : List Byte) : (hostWrite s a d).pending = s.pending := rfl
@[simp] theorem hostWrite_clock (s : State) (a : Nat) (d : List Byte) : (hostWrite s a d).clock = s.clock := rfl
@[simp] theorem hostWrite_free (s : State) (a : Nat) (d : List Byte) : (hostWrite s a d).free = s.free := rfl
@[simp] theorem hostWrite_mem (s : State) (a : Nat) (d : List Byte) : (hostWrite s a d).mem = s.mem := rfl
@[simp] theorem hostWrite_cmd (s : State) (a : Nat) (d : List Byte) : (hostWrite s a d).cmd = s.cmd := rfl
@[simp] theorem hostWrite_til (s : State) (a : Nat) (d : List Byte) : (hostWrite s a d).til = s.til := rfl
@[simp] theorem hostWrite_ser (s : State) (a : Nat) (d : List Byte) : (hostWrite s a d).ser = s.ser := rfl
@[simp] theorem hostWrite_hbm (s : State) (a : Nat) (d : List Byte) : (hostWrite s a d).hbm = s.hbm := rfl
@[simp] theorem hostWrite_lnk (s : State) (a : Nat) (d : List Byte) : (hostWrite s a d).lnk = s.lnk := rfl
@[simp] theorem hostWrite_evd (s : State) (a : Nat) (d : List Byte) : (hostWrite s a d).evd = s.evd := rfl
@[simp] theorem hostWrite_ras (s : State) (a : Nat) (d : List Byte) : (hostWrite s a d).ras = s.ras := rfl
@[simp] theorem hostWrite_esc (s : State) (a : Nat) (d : List Byte) : (hostWrite s a d).esc = s.esc := rfl
@[simp] theorem hostWrite_job (s : State) (a : Nat) (d : List Byte) : (hostWrite s a d).job = s.job := rfl
@[simp] theorem hostWrite_pwr (s : State) (a : Nat) (d : List Byte) : (hostWrite s a d).pwr = s.pwr := rfl
@[simp] theorem hostWrite_clk (s : State) (a : Nat) (d : List Byte) : (hostWrite s a d).clk = s.clk := rfl
@[simp] theorem hostWrite_cfg (s : State) (a : Nat) (d : List Byte) : (hostWrite s a d).cfg = s.cfg := rfl
@[simp] theorem hostWrite_flash (s : State) (a : Nat) (d : List Byte) : (hostWrite s a d).flash = s.flash := rfl
@[simp] theorem hostWrite_fwu (s : State) (a : Nat) (d : List Byte) : (hostWrite s a d).fwu = s.fwu := rfl
@[simp] theorem hostWrite_sec (s : State) (a : Nat) (d : List Byte) : (hostWrite s a d).sec = s.sec := rfl
@[simp] theorem hostWrite_hif (s : State) (a : Nat) (d : List Byte) : (hostWrite s a d).hif = s.hif := rfl
@[simp] theorem hostWrite_pldm (s : State) (a : Nat) (d : List Byte) : (hostWrite s a d).pldm = s.pldm := rfl
@[simp] theorem hostWrite_lm0 (s : State) (a : Nat) (d : List Byte) : (hostWrite s a d).lm0 = s.lm0 := rfl
@[simp] theorem hostWrite_lm1 (s : State) (a : Nat) (d : List Byte) : (hostWrite s a d).lm1 = s.lm1 := rfl
@[simp] theorem hostWrite_selH (s : State) (a : Nat) (d : List Byte) : (hostWrite s a d).selH = s.selH := rfl
@[simp] theorem hostWrite_selM (s : State) (a : Nat) (d : List Byte) : (hostWrite s a d).selM = s.selM := rfl

/-! ### history -/

@[simp] theorem history_pending (s : State) (st : Status) (v : Nat) : (history s st v).pending = s.pending := rfl
@[simp] theorem history_clock (s : State) (st : Status) (v : Nat) : (history s st v).clock = s.clock := rfl
@[simp] theorem history_free (s : State) (st : Status) (v : Nat) : (history s st v).free = s.free := rfl
@[simp] theorem history_mem (s : State) (st : Status) (v : Nat) : (history s st v).mem = s.mem := rfl
@[simp] theorem history_cmd (s : State) (st : Status) (v : Nat) : (history s st v).cmd = s.cmd := rfl
@[simp] theorem history_til (s : State) (st : Status) (v : Nat) : (history s st v).til = s.til := rfl
@[simp] theorem history_ser (s : State) (st : Status) (v : Nat) : (history s st v).ser = s.ser := rfl
@[simp] theorem history_hbm (s : State) (st : Status) (v : Nat) : (history s st v).hbm = s.hbm := rfl
@[simp] theorem history_lnk (s : State) (st : Status) (v : Nat) : (history s st v).lnk = s.lnk := rfl
@[simp] theorem history_evd (s : State) (st : Status) (v : Nat) : (history s st v).evd = s.evd := rfl
@[simp] theorem history_ras (s : State) (st : Status) (v : Nat) : (history s st v).ras = s.ras := rfl
@[simp] theorem history_esc (s : State) (st : Status) (v : Nat) : (history s st v).esc = s.esc := rfl
@[simp] theorem history_job (s : State) (st : Status) (v : Nat) : (history s st v).job = s.job := rfl
@[simp] theorem history_pwr (s : State) (st : Status) (v : Nat) : (history s st v).pwr = s.pwr := rfl
@[simp] theorem history_clk (s : State) (st : Status) (v : Nat) : (history s st v).clk = s.clk := rfl
@[simp] theorem history_cfg (s : State) (st : Status) (v : Nat) : (history s st v).cfg = s.cfg := rfl
@[simp] theorem history_fwu (s : State) (st : Status) (v : Nat) : (history s st v).fwu = s.fwu := rfl
@[simp] theorem history_sec (s : State) (st : Status) (v : Nat) : (history s st v).sec = s.sec := rfl
@[simp] theorem history_hif (s : State) (st : Status) (v : Nat) : (history s st v).hif = s.hif := rfl
@[simp] theorem history_pldm (s : State) (st : Status) (v : Nat) : (history s st v).pldm = s.pldm := rfl
@[simp] theorem history_lm0 (s : State) (st : Status) (v : Nat) : (history s st v).lm0 = s.lm0 := rfl
@[simp] theorem history_lm1 (s : State) (st : Status) (v : Nat) : (history s st v).lm1 = s.lm1 := rfl
@[simp] theorem history_selH (s : State) (st : Status) (v : Nat) : (history s st v).selH = s.selH := rfl
@[simp] theorem history_selM (s : State) (st : Status) (v : Nat) : (history s st v).selM = s.selM := rfl
@[simp] theorem history_out (s : State) (st : Status) (v : Nat) : (history s st v).out = s.out := rfl

/-! ### powerEvent -/

@[simp] theorem powerEvent_pending (s : State) (st : Status) (v : Nat) : (powerEvent s st v).pending = s.pending := rfl
@[simp] theorem powerEvent_clock (s : State) (st : Status) (v : Nat) : (powerEvent s st v).clock = s.clock := rfl
@[simp] theorem powerEvent_free (s : State) (st : Status) (v : Nat) : (powerEvent s st v).free = s.free := rfl
@[simp] theorem powerEvent_mem (s : State) (st : Status) (v : Nat) : (powerEvent s st v).mem = s.mem := rfl
@[simp] theorem powerEvent_cmd (s : State) (st : Status) (v : Nat) : (powerEvent s st v).cmd = s.cmd := rfl
@[simp] theorem powerEvent_til (s : State) (st : Status) (v : Nat) : (powerEvent s st v).til = s.til := rfl
@[simp] theorem powerEvent_ser (s : State) (st : Status) (v : Nat) : (powerEvent s st v).ser = s.ser := rfl
@[simp] theorem powerEvent_hbm (s : State) (st : Status) (v : Nat) : (powerEvent s st v).hbm = s.hbm := rfl
@[simp] theorem powerEvent_lnk (s : State) (st : Status) (v : Nat) : (powerEvent s st v).lnk = s.lnk := rfl
@[simp] theorem powerEvent_evd (s : State) (st : Status) (v : Nat) : (powerEvent s st v).evd = s.evd := rfl
@[simp] theorem powerEvent_ras (s : State) (st : Status) (v : Nat) : (powerEvent s st v).ras = s.ras := rfl
@[simp] theorem powerEvent_esc (s : State) (st : Status) (v : Nat) : (powerEvent s st v).esc = s.esc := rfl
@[simp] theorem powerEvent_job (s : State) (st : Status) (v : Nat) : (powerEvent s st v).job = s.job := rfl
@[simp] theorem powerEvent_pwr (s : State) (st : Status) (v : Nat) : (powerEvent s st v).pwr = s.pwr := rfl
@[simp] theorem powerEvent_clk (s : State) (st : Status) (v : Nat) : (powerEvent s st v).clk = s.clk := rfl
@[simp] theorem powerEvent_cfg (s : State) (st : Status) (v : Nat) : (powerEvent s st v).cfg = s.cfg := rfl
@[simp] theorem powerEvent_fwu (s : State) (st : Status) (v : Nat) : (powerEvent s st v).fwu = s.fwu := rfl
@[simp] theorem powerEvent_sec (s : State) (st : Status) (v : Nat) : (powerEvent s st v).sec = s.sec := rfl
@[simp] theorem powerEvent_hif (s : State) (st : Status) (v : Nat) : (powerEvent s st v).hif = s.hif := rfl
@[simp] theorem powerEvent_pldm (s : State) (st : Status) (v : Nat) : (powerEvent s st v).pldm = s.pldm := rfl
@[simp] theorem powerEvent_lm0 (s : State) (st : Status) (v : Nat) : (powerEvent s st v).lm0 = s.lm0 := rfl
@[simp] theorem powerEvent_lm1 (s : State) (st : Status) (v : Nat) : (powerEvent s st v).lm1 = s.lm1 := rfl
@[simp] theorem powerEvent_selH (s : State) (st : Status) (v : Nat) : (powerEvent s st v).selH = s.selH := rfl
@[simp] theorem powerEvent_selM (s : State) (st : Status) (v : Nat) : (powerEvent s st v).selM = s.selM := rfl
@[simp] theorem powerEvent_out (s : State) (st : Status) (v : Nat) : (powerEvent s st v).out = s.out := rfl

/-! ### freshFree -/

@[simp] theorem freshFree_pending (s : State) : (freshFree s).pending = s.pending := rfl
@[simp] theorem freshFree_clock (s : State) : (freshFree s).clock = s.clock := rfl
@[simp] theorem freshFree_mem (s : State) : (freshFree s).mem = s.mem := rfl
@[simp] theorem freshFree_cmd (s : State) : (freshFree s).cmd = s.cmd := rfl
@[simp] theorem freshFree_til (s : State) : (freshFree s).til = s.til := rfl
@[simp] theorem freshFree_ser (s : State) : (freshFree s).ser = s.ser := rfl
@[simp] theorem freshFree_hbm (s : State) : (freshFree s).hbm = s.hbm := rfl
@[simp] theorem freshFree_lnk (s : State) : (freshFree s).lnk = s.lnk := rfl
@[simp] theorem freshFree_evd (s : State) : (freshFree s).evd = s.evd := rfl
@[simp] theorem freshFree_ras (s : State) : (freshFree s).ras = s.ras := rfl
@[simp] theorem freshFree_esc (s : State) : (freshFree s).esc = s.esc := rfl
@[simp] theorem freshFree_job (s : State) : (freshFree s).job = s.job := rfl
@[simp] theorem freshFree_pwr (s : State) : (freshFree s).pwr = s.pwr := rfl
@[simp] theorem freshFree_clk (s : State) : (freshFree s).clk = s.clk := rfl
@[simp] theorem freshFree_cfg (s : State) : (freshFree s).cfg = s.cfg := rfl
@[simp] theorem freshFree_flash (s : State) : (freshFree s).flash = s.flash := rfl
@[simp] theorem freshFree_fwu (s : State) : (freshFree s).fwu = s.fwu := rfl
@[simp] theorem freshFree_sec (s : State) : (freshFree s).sec = s.sec := rfl
@[simp] theorem freshFree_hif (s : State) : (freshFree s).hif = s.hif := rfl
@[simp] theorem freshFree_pldm (s : State) : (freshFree s).pldm = s.pldm := rfl
@[simp] theorem freshFree_lm0 (s : State) : (freshFree s).lm0 = s.lm0 := rfl
@[simp] theorem freshFree_lm1 (s : State) : (freshFree s).lm1 = s.lm1 := rfl
@[simp] theorem freshFree_selH (s : State) : (freshFree s).selH = s.selH := rfl
@[simp] theorem freshFree_selM (s : State) : (freshFree s).selM = s.selM := rfl
@[simp] theorem freshFree_out (s : State) : (freshFree s).out = s.out := rfl

/-! ### pushEntry -/

@[simp] theorem pushEntry_pending (s : State) (n : Nat) (e : Entry) : (pushEntry s n e).pending = s.pending := rfl
@[simp] theorem pushEntry_clock (s : State) (n : Nat) (e : Entry) : (pushEntry s n e).clock = s.clock := rfl
@[simp] theorem pushEntry_free (s : State) (n : Nat) (e : Entry) : (pushEntry s n e).free = s.free := rfl
@[simp] theorem pushEntry_mem (s : State) (n : Nat) (e : Entry) : (pushEntry s n e).mem = s.mem := rfl
@[simp] theorem pushEntry_til (s : State) (n : Nat) (e : Entry) : (pushEntry s n e).til = s.til := rfl
@[simp] theorem pushEntry_ser (s : State) (n : Nat) (e : Entry) : (pushEntry s n e).ser = s.ser := rfl
@[simp] theorem pushEntry_hbm (s : State) (n : Nat) (e : Entry) : (pushEntry s n e).hbm = s.hbm := rfl
@[simp] theorem pushEntry_lnk (s : State) (n : Nat) (e : Entry) : (pushEntry s n e).lnk = s.lnk := rfl
@[simp] theorem pushEntry_evd (s : State) (n : Nat) (e : Entry) : (pushEntry s n e).evd = s.evd := rfl
@[simp] theorem pushEntry_ras (s : State) (n : Nat) (e : Entry) : (pushEntry s n e).ras = s.ras := rfl
@[simp] theorem pushEntry_esc (s : State) (n : Nat) (e : Entry) : (pushEntry s n e).esc = s.esc := rfl
@[simp] theorem pushEntry_job (s : State) (n : Nat) (e : Entry) : (pushEntry s n e).job = s.job := rfl
@[simp] theorem pushEntry_pwr (s : State) (n : Nat) (e : Entry) : (pushEntry s n e).pwr = s.pwr := rfl
@[simp] theorem pushEntry_clk (s : State) (n : Nat) (e : Entry) : (pushEntry s n e).clk = s.clk := rfl
@[simp] theorem pushEntry_cfg (s : State) (n : Nat) (e : Entry) : (pushEntry s n e).cfg = s.cfg := rfl
@[simp] theorem pushEntry_flash (s : State) (n : Nat) (e : Entry) : (pushEntry s n e).flash = s.flash := rfl
@[simp] theorem pushEntry_fwu (s : State) (n : Nat) (e : Entry) : (pushEntry s n e).fwu = s.fwu := rfl
@[simp] theorem pushEntry_sec (s : State) (n : Nat) (e : Entry) : (pushEntry s n e).sec = s.sec := rfl
@[simp] theorem pushEntry_hif (s : State) (n : Nat) (e : Entry) : (pushEntry s n e).hif = s.hif := rfl
@[simp] theorem pushEntry_pldm (s : State) (n : Nat) (e : Entry) : (pushEntry s n e).pldm = s.pldm := rfl
@[simp] theorem pushEntry_lm0 (s : State) (n : Nat) (e : Entry) : (pushEntry s n e).lm0 = s.lm0 := rfl
@[simp] theorem pushEntry_lm1 (s : State) (n : Nat) (e : Entry) : (pushEntry s n e).lm1 = s.lm1 := rfl
@[simp] theorem pushEntry_selH (s : State) (n : Nat) (e : Entry) : (pushEntry s n e).selH = s.selH := rfl
@[simp] theorem pushEntry_selM (s : State) (n : Nat) (e : Entry) : (pushEntry s n e).selM = s.selM := rfl
@[simp] theorem pushEntry_out (s : State) (n : Nat) (e : Entry) : (pushEntry s n e).out = s.out := rfl

/-! ### modEntry -/

@[simp] theorem modEntry_pending (s : State) (n i : Nat) (f : Entry → Entry) : (modEntry s n i f).pending = s.pending := rfl
@[simp] theorem modEntry_clock (s : State) (n i : Nat) (f : Entry → Entry) : (modEntry s n i f).clock = s.clock := rfl
@[simp] theorem modEntry_free (s : State) (n i : Nat) (f : Entry → Entry) : (modEntry s n i f).free = s.free := rfl
@[simp] theorem modEntry_mem (s : State) (n i : Nat) (f : Entry → Entry) : (modEntry s n i f).mem = s.mem := rfl
@[simp] theorem modEntry_til (s : State) (n i : Nat) (f : Entry → Entry) : (modEntry s n i f).til = s.til := rfl
@[simp] theorem modEntry_ser (s : State) (n i : Nat) (f : Entry → Entry) : (modEntry s n i f).ser = s.ser := rfl
@[simp] theorem modEntry_hbm (s : State) (n i : Nat) (f : Entry → Entry) : (modEntry s n i f).hbm = s.hbm := rfl
@[simp] theorem modEntry_lnk (s : State) (n i : Nat) (f : Entry → Entry) : (modEntry s n i f).lnk = s.lnk := rfl
@[simp] theorem modEntry_evd (s : State) (n i : Nat) (f : Entry → Entry) : (modEntry s n i f).evd = s.evd := rfl
@[simp] theorem modEntry_ras (s : State) (n i : Nat) (f : Entry → Entry) : (modEntry s n i f).ras = s.ras := rfl
@[simp] theorem modEntry_esc (s : State) (n i : Nat) (f : Entry → Entry) : (modEntry s n i f).esc = s.esc := rfl
@[simp] theorem modEntry_job (s : State) (n i : Nat) (f : Entry → Entry) : (modEntry s n i f).job = s.job := rfl
@[simp] theorem modEntry_pwr (s : State) (n i : Nat) (f : Entry → Entry) : (modEntry s n i f).pwr = s.pwr := rfl
@[simp] theorem modEntry_clk (s : State) (n i : Nat) (f : Entry → Entry) : (modEntry s n i f).clk = s.clk := rfl
@[simp] theorem modEntry_cfg (s : State) (n i : Nat) (f : Entry → Entry) : (modEntry s n i f).cfg = s.cfg := rfl
@[simp] theorem modEntry_flash (s : State) (n i : Nat) (f : Entry → Entry) : (modEntry s n i f).flash = s.flash := rfl
@[simp] theorem modEntry_fwu (s : State) (n i : Nat) (f : Entry → Entry) : (modEntry s n i f).fwu = s.fwu := rfl
@[simp] theorem modEntry_sec (s : State) (n i : Nat) (f : Entry → Entry) : (modEntry s n i f).sec = s.sec := rfl
@[simp] theorem modEntry_hif (s : State) (n i : Nat) (f : Entry → Entry) : (modEntry s n i f).hif = s.hif := rfl
@[simp] theorem modEntry_pldm (s : State) (n i : Nat) (f : Entry → Entry) : (modEntry s n i f).pldm = s.pldm := rfl
@[simp] theorem modEntry_lm0 (s : State) (n i : Nat) (f : Entry → Entry) : (modEntry s n i f).lm0 = s.lm0 := rfl
@[simp] theorem modEntry_lm1 (s : State) (n i : Nat) (f : Entry → Entry) : (modEntry s n i f).lm1 = s.lm1 := rfl
@[simp] theorem modEntry_selH (s : State) (n i : Nat) (f : Entry → Entry) : (modEntry s n i f).selH = s.selH := rfl
@[simp] theorem modEntry_selM (s : State) (n i : Nat) (f : Entry → Entry) : (modEntry s n i f).selM = s.selM := rfl
@[simp] theorem modEntry_out (s : State) (n i : Nat) (f : Entry → Entry) : (modEntry s n i f).out = s.out := rfl

/-! ### syncUpdate -/

@[simp] theorem syncUpdate_pending (s : State) (i : Nat) (b : Bool) (v : W64) : (syncUpdate s i b v).pending = s.pending := rfl
@[simp] theorem syncUpdate_clock (s : State) (i : Nat) (b : Bool) (v : W64) : (syncUpdate s i b v).clock = s.clock := rfl
@[simp] theorem syncUpdate_free (s : State) (i : Nat) (b : Bool) (v : W64) : (syncUpdate s i b v).free = s.free := rfl
@[simp] theorem syncUpdate_mem (s : State) (i : Nat) (b : Bool) (v : W64) : (syncUpdate s i b v).mem = s.mem := rfl
@[simp] theorem syncUpdate_til (s : State) (i : Nat) (b : Bool) (v : W64) : (syncUpdate s i b v).til = s.til := rfl
@[simp] theorem syncUpdate_ser (s : State) (i : Nat) (b : Bool) (v : W64) : (syncUpdate s i b v).ser = s.ser := rfl
@[simp] theorem syncUpdate_hbm (s : State) (i : Nat) (b : Bool) (v : W64) : (syncUpdate s i b v).hbm = s.hbm := rfl
@[simp] theorem syncUpdate_lnk (s : State) (i : Nat) (b : Bool) (v : W64) : (syncUpdate s i b v).lnk = s.lnk := rfl
@[simp] theorem syncUpdate_evd (s : State) (i : Nat) (b : Bool) (v : W64) : (syncUpdate s i b v).evd = s.evd := rfl
@[simp] theorem syncUpdate_ras (s : State) (i : Nat) (b : Bool) (v : W64) : (syncUpdate s i b v).ras = s.ras := rfl
@[simp] theorem syncUpdate_esc (s : State) (i : Nat) (b : Bool) (v : W64) : (syncUpdate s i b v).esc = s.esc := rfl
@[simp] theorem syncUpdate_job (s : State) (i : Nat) (b : Bool) (v : W64) : (syncUpdate s i b v).job = s.job := rfl
@[simp] theorem syncUpdate_pwr (s : State) (i : Nat) (b : Bool) (v : W64) : (syncUpdate s i b v).pwr = s.pwr := rfl
@[simp] theorem syncUpdate_clk (s : State) (i : Nat) (b : Bool) (v : W64) : (syncUpdate s i b v).clk = s.clk := rfl
@[simp] theorem syncUpdate_cfg (s : State) (i : Nat) (b : Bool) (v : W64) : (syncUpdate s i b v).cfg = s.cfg := rfl
@[simp] theorem syncUpdate_flash (s : State) (i : Nat) (b : Bool) (v : W64) : (syncUpdate s i b v).flash = s.flash := rfl
@[simp] theorem syncUpdate_fwu (s : State) (i : Nat) (b : Bool) (v : W64) : (syncUpdate s i b v).fwu = s.fwu := rfl
@[simp] theorem syncUpdate_sec (s : State) (i : Nat) (b : Bool) (v : W64) : (syncUpdate s i b v).sec = s.sec := rfl
@[simp] theorem syncUpdate_hif (s : State) (i : Nat) (b : Bool) (v : W64) : (syncUpdate s i b v).hif = s.hif := rfl
@[simp] theorem syncUpdate_pldm (s : State) (i : Nat) (b : Bool) (v : W64) : (syncUpdate s i b v).pldm = s.pldm := rfl
@[simp] theorem syncUpdate_lm0 (s : State) (i : Nat) (b : Bool) (v : W64) : (syncUpdate s i b v).lm0 = s.lm0 := rfl
@[simp] theorem syncUpdate_lm1 (s : State) (i : Nat) (b : Bool) (v : W64) : (syncUpdate s i b v).lm1 = s.lm1 := rfl
@[simp] theorem syncUpdate_selH (s : State) (i : Nat) (b : Bool) (v : W64) : (syncUpdate s i b v).selH = s.selH := rfl
@[simp] theorem syncUpdate_selM (s : State) (i : Nat) (b : Bool) (v : W64) : (syncUpdate s i b v).selM = s.selM := rfl
@[simp] theorem syncUpdate_out (s : State) (i : Nat) (b : Bool) (v : W64) : (syncUpdate s i b v).out = s.out := rfl

/-! ### modCmd: an entry of a stream -/

@[simp] theorem modCmd_pending (s : State) (n : Nat) (q : W64) (f : Entry → Entry) : (modCmd s n q f).pending = s.pending := by
  unfold modCmd; split <;> rfl
@[simp] theorem modCmd_clock (s : State) (n : Nat) (q : W64) (f : Entry → Entry) : (modCmd s n q f).clock = s.clock := by
  unfold modCmd; split <;> rfl
@[simp] theorem modCmd_free (s : State) (n : Nat) (q : W64) (f : Entry → Entry) : (modCmd s n q f).free = s.free := by
  unfold modCmd; split <;> rfl
@[simp] theorem modCmd_mem (s : State) (n : Nat) (q : W64) (f : Entry → Entry) : (modCmd s n q f).mem = s.mem := by
  unfold modCmd; split <;> rfl
@[simp] theorem modCmd_til (s : State) (n : Nat) (q : W64) (f : Entry → Entry) : (modCmd s n q f).til = s.til := by
  unfold modCmd; split <;> rfl
@[simp] theorem modCmd_ser (s : State) (n : Nat) (q : W64) (f : Entry → Entry) : (modCmd s n q f).ser = s.ser := by
  unfold modCmd; split <;> rfl
@[simp] theorem modCmd_hbm (s : State) (n : Nat) (q : W64) (f : Entry → Entry) : (modCmd s n q f).hbm = s.hbm := by
  unfold modCmd; split <;> rfl
@[simp] theorem modCmd_lnk (s : State) (n : Nat) (q : W64) (f : Entry → Entry) : (modCmd s n q f).lnk = s.lnk := by
  unfold modCmd; split <;> rfl
@[simp] theorem modCmd_evd (s : State) (n : Nat) (q : W64) (f : Entry → Entry) : (modCmd s n q f).evd = s.evd := by
  unfold modCmd; split <;> rfl
@[simp] theorem modCmd_ras (s : State) (n : Nat) (q : W64) (f : Entry → Entry) : (modCmd s n q f).ras = s.ras := by
  unfold modCmd; split <;> rfl
@[simp] theorem modCmd_esc (s : State) (n : Nat) (q : W64) (f : Entry → Entry) : (modCmd s n q f).esc = s.esc := by
  unfold modCmd; split <;> rfl
@[simp] theorem modCmd_job (s : State) (n : Nat) (q : W64) (f : Entry → Entry) : (modCmd s n q f).job = s.job := by
  unfold modCmd; split <;> rfl
@[simp] theorem modCmd_pwr (s : State) (n : Nat) (q : W64) (f : Entry → Entry) : (modCmd s n q f).pwr = s.pwr := by
  unfold modCmd; split <;> rfl
@[simp] theorem modCmd_clk (s : State) (n : Nat) (q : W64) (f : Entry → Entry) : (modCmd s n q f).clk = s.clk := by
  unfold modCmd; split <;> rfl
@[simp] theorem modCmd_cfg (s : State) (n : Nat) (q : W64) (f : Entry → Entry) : (modCmd s n q f).cfg = s.cfg := by
  unfold modCmd; split <;> rfl
@[simp] theorem modCmd_flash (s : State) (n : Nat) (q : W64) (f : Entry → Entry) : (modCmd s n q f).flash = s.flash := by
  unfold modCmd; split <;> rfl
@[simp] theorem modCmd_fwu (s : State) (n : Nat) (q : W64) (f : Entry → Entry) : (modCmd s n q f).fwu = s.fwu := by
  unfold modCmd; split <;> rfl
@[simp] theorem modCmd_sec (s : State) (n : Nat) (q : W64) (f : Entry → Entry) : (modCmd s n q f).sec = s.sec := by
  unfold modCmd; split <;> rfl
@[simp] theorem modCmd_hif (s : State) (n : Nat) (q : W64) (f : Entry → Entry) : (modCmd s n q f).hif = s.hif := by
  unfold modCmd; split <;> rfl
@[simp] theorem modCmd_pldm (s : State) (n : Nat) (q : W64) (f : Entry → Entry) : (modCmd s n q f).pldm = s.pldm := by
  unfold modCmd; split <;> rfl
@[simp] theorem modCmd_lm0 (s : State) (n : Nat) (q : W64) (f : Entry → Entry) : (modCmd s n q f).lm0 = s.lm0 := by
  unfold modCmd; split <;> rfl
@[simp] theorem modCmd_lm1 (s : State) (n : Nat) (q : W64) (f : Entry → Entry) : (modCmd s n q f).lm1 = s.lm1 := by
  unfold modCmd; split <;> rfl
@[simp] theorem modCmd_selH (s : State) (n : Nat) (q : W64) (f : Entry → Entry) : (modCmd s n q f).selH = s.selH := by
  unfold modCmd; split <;> rfl
@[simp] theorem modCmd_selM (s : State) (n : Nat) (q : W64) (f : Entry → Entry) : (modCmd s n q f).selM = s.selM := by
  unfold modCmd; split <;> rfl
@[simp] theorem modCmd_out (s : State) (n : Nat) (q : W64) (f : Entry → Entry) : (modCmd s n q f).out = s.out := by
  unfold modCmd; split <;> rfl

/-! ### Reading an entry after an update -/

@[simp] theorem strmOf_modStrm_same (s : State) (n : Nat) (f : Stream → Stream) : strmOf (modStrm s n f) n = f (strmOf s n) :=
  tget_tmod_same _ _ _ _
theorem strmOf_modStrm_ne (s : State) {n k : Nat} (h : k ≠ n) (f : Stream → Stream) : strmOf (modStrm s n f) k = strmOf s k :=
  tget_tmod_ne _ h _ _ _
@[simp] theorem ringOf_modRing_same (s : State) (n : Nat) (f : Ring → Ring) : ringOf (modRing s n f) n = f (ringOf s n) :=
  tget_tmod_same _ _ _ _
theorem ringOf_modRing_ne (s : State) {n k : Nat} (h : k ≠ n) (f : Ring → Ring) : ringOf (modRing s n f) k = ringOf s k :=
  tget_tmod_ne _ h _ _ _
@[simp] theorem tileOf_modTile_same (s : State) (n : Nat) (f : Tile → Tile) : tileOf (modTile s n f) n = f (tileOf s n) :=
  tget_tmod_same _ _ _ _
theorem tileOf_modTile_ne (s : State) {n k : Nat} (h : k ≠ n) (f : Tile → Tile) : tileOf (modTile s n f) k = tileOf s k :=
  tget_tmod_ne _ h _ _ _
@[simp] theorem cluOf_modClu_same (s : State) (n : Nat) (f : Clu → Clu) : cluOf (modClu s n f) n = f (cluOf s n) :=
  tget_tmod_same _ _ _ _
theorem cluOf_modClu_ne (s : State) {n k : Nat} (h : k ≠ n) (f : Clu → Clu) : cluOf (modClu s n f) k = cluOf s k :=
  tget_tmod_ne _ h _ _ _
@[simp] theorem rasOf_modRas_same (s : State) (n : Nat) (f : TileRas → TileRas) : rasOf (modRas s n f) n = f (rasOf s n) :=
  tget_tmod_same _ _ _ _
@[simp] theorem portOf_modPort_same (s : State) (n : Nat) (f : Port → Port) : portOf (modPort s n f) n = f (portOf s n) :=
  tget_tmod_same _ _ _ _
theorem portOf_modPort_ne (s : State) {n k : Nat} (h : k ≠ n) (f : Port → Port) : portOf (modPort s n f) k = portOf s k :=
  tget_tmod_ne _ h _ _ _
@[simp] theorem peerOf_modPeer_same (s : State) (n : Nat) (f : Peer → Peer) : peerOf (modPeer s n f) n = f (peerOf s n) :=
  tget_tmod_same _ _ _ _
@[simp] theorem groupOf_modGroup_same (s : State) (n : Nat) (f : Group → Group) : groupOf (modGroup s n f) n = f (groupOf s n) :=
  tget_tmod_same _ _ _ _
@[simp] theorem syncOf_syncUpdate_same (s : State) (i : Nat) (b : Bool) (v : W64) :
    syncOf (syncUpdate s i b v) (i % 16384)
      = if b then (if syncOf s (i % 16384) < v then v else syncOf s (i % 16384)) else syncOf s (i % 16384) + v := by
  unfold syncUpdate syncOf
  dsimp only
  rw [tget_tmod_same]
theorem syncOf_syncUpdate_ne (s : State) {i k : Nat} (h : k ≠ i % 16384) (b : Bool) (v : W64) :
    syncOf (syncUpdate s i b v) k = syncOf s k := by
  unfold syncUpdate syncOf
  dsimp only
  rw [tget_tmod_ne _ h]

end Sys2Proof.Machine
end

