-- ==== Sys2Proof/Laws/Net.lean ====
section
/-! SUPPORT. What sending on Scezer Link changes: ports, peers, what is sent and what has left the device, and nothing else. -/

namespace Sys2Proof.Machine

theorem OnlyLink.refl (s : State) : OnlyLink s s := rfl

theorem OnlyLink.trans {s t u : State} (h : OnlyLink s t) (g : OnlyLink t u) : OnlyLink s u := by
  unfold OnlyLink at *
  rw [g, h]

theorem OnlyLink.of_eq {s : State} {l : Lnk} {o : Out} {t : State} (h : t = { s with lnk := l, out := o }) : OnlyLink s t := by
  subst h
  rfl

/-- What OnlyLink keeps, field by field. -/
theorem OnlyLink.fields {s t : State} (h : OnlyLink s t) :
    t.pending = s.pending ∧ t.clock = s.clock ∧ t.free = s.free ∧ t.mem = s.mem ∧ t.cmd = s.cmd ∧ t.til = s.til ∧ t.ser = s.ser
      ∧ t.hbm = s.hbm ∧ t.evd = s.evd ∧ t.ras = s.ras ∧ t.esc = s.esc ∧ t.job = s.job ∧ SameOuter s t := by
  unfold OnlyLink at h
  rw [h]
  exact ⟨rfl, rfl, rfl, rfl, rfl, rfl, rfl, rfl, rfl, rfl, rfl, rfl, rfl, rfl, rfl, rfl, rfl, rfl, rfl, rfl, rfl, rfl⟩

theorem portOf_wire_ne (s : State) {p k : Nat} (h : k ≠ p) (f : List Byte) : portOf (wire s p f) k = portOf s k :=
  portOf_modPort_ne _ h _

@[simp] theorem portOf_wire (s : State) (p : Nat) (f : List Byte) : portOf (wire s p f) p = { portOf s p with cwCnt := (portOf s p).cwCnt + 1 } :=
  portOf_modPort_same _ _ _

theorem peerOf_modPeer_ne (s : State) {n k : Nat} (h : k ≠ n) (f : Peer → Peer) : peerOf (modPeer s n f) k = peerOf s k := by
  simp only [peerOf, modPeer]
  exact tget_tmod_ne _ h _ _ _

@[simp] theorem portOf_modPeer (s : State) (n k : Nat) (f : Peer → Peer) : portOf (modPeer s n f) k = portOf s k := rfl
@[simp] theorem peerOf_modPort (s : State) (p k : Nat) (f : Port → Port) : peerOf (modPort s p f) k = peerOf s k := rfl

/-- Sending what a port can changes that port and what is on the wire. -/
theorem pump_frame (p n : Nat) (s : State) :
    ∃ P O, pump p n s = { s with lnk := { s.lnk with ports := P }, out := O } ∧ O.link = s.out.link ∧ O.host = s.out.host
      ∧ O.msi = s.out.msi := by
  induction n generalizing s with
  | zero => exact ⟨_, _, rfl, rfl, rfl, rfl⟩
  | succ n ih =>
    unfold pump
    dsimp only
    split
    · exact ⟨_, _, rfl, rfl, rfl, rfl⟩
    · split
      · exact ⟨_, _, rfl, rfl, rfl, rfl⟩
      · obtain ⟨P, O, h, a, b, c⟩ := ih (wire (modPort s p _) p _)
        exact ⟨P, O, h.trans rfl, a, b, c⟩

/-- The ports that sending leaves alone. -/
theorem portOf_pump_ne (p n : Nat) (s : State) {k : Nat} (h : k ≠ p) : portOf (pump p n s) k = portOf s k := by
  induction n generalizing s with
  | zero => rfl
  | succ n ih =>
    unfold pump
    dsimp only
    split
    · rfl
    · split
      · rfl
      · rw [ih, portOf_wire_ne _ h, portOf_modPort_ne _ h]

/-- A port after it sent: only its queue, the end of its replay buffer and the counts of what was sent have changed. -/
def Port.SentFrom (q r : Port) : Prop :=
  r = { q with waitq := r.waitq, replay := r.replay, txSeq := r.txSeq, sent := r.sent, tx := r.tx, cwCnt := r.cwCnt } ∧ q.replay <+: r.replay

theorem Port.SentFrom.refl (q : Port) : q.SentFrom q := ⟨rfl, List.prefix_refl _⟩

theorem Port.SentFrom.trans {q r t : Port} (h : q.SentFrom r) (g : r.SentFrom t) : q.SentFrom t :=
  ⟨by rw [g.1, h.1], h.2.trans g.2⟩

theorem portOf_pump (p n : Nat) (s : State) : (portOf s p).SentFrom (portOf (pump p n s) p) := by
  induction n generalizing s with
  | zero => exact Port.SentFrom.refl _
  | succ n ih =>
    unfold pump
    dsimp only
    split
    · exact Port.SentFrom.refl _
    · split
      · exact Port.SentFrom.refl _
      · refine Port.SentFrom.trans ?_ (ih _)
        rw [portOf_wire, portOf_modPort_same]
        exact ⟨rfl, List.prefix_append _ _⟩

/-- Handing a transaction to a port: it leaves the device, and only ports and the wire change. -/
theorem emitOn_frame (s : State) (p : Nat) (t : Txn) :
    ∃ P O, emitOn s p t = { s with lnk := { s.lnk with ports := P }, out := O } ∧ O.link = s.out.link ++ [{ t with plane := Fin.ofNat 8 p }]
      ∧ O.host = s.out.host ∧ O.msi = s.out.msi := by
  unfold emitOn pumpPort
  dsimp only
  obtain ⟨P, O, h, a, b, c⟩ := pump_frame p _ (modPort { s with out := { s.out with link := s.out.link ++ [{ t with plane := Fin.ofNat 8 p }] } } p _)
  exact ⟨P, O, h.trans rfl, a, b, c⟩

theorem emit_frame (s : State) (t : Txn) (p0 : Nat) :
    ∃ P O l, emit s t p0 = { s with lnk := { s.lnk with ports := P }, out := O } ∧ O.link = s.out.link ++ l ∧ O.host = s.out.host
      ∧ O.msi = s.out.msi := by
  unfold emit
  split
  · exact ⟨_, _, [], rfl, by simp, rfl, rfl⟩
  · obtain ⟨P, O, h, a, b, c⟩ := emitOn_frame s _ t
    exact ⟨P, O, _, h, a, b, c⟩

/-- HELLO changes ports, and the peer's own note that it was sent. -/
theorem sendHello_frame (s : State) (dst : NodeId) :
    ∃ P O, sendHello s dst
        = { s with lnk := { s.lnk with ports := P, peers := (modPeer s dst.toNat fun p => { p with hello := true }).lnk.peers }, out := O }
      ∧ O.host = s.out.host ∧ O.msi = s.out.msi := by
  unfold sendHello
  dsimp only
  obtain ⟨P, O, l, h, _, b, c⟩ := emit_frame (modPeer s dst.toNat fun p => { p with hello := true }) _ 0
  exact ⟨P, O, h.trans rfl, b, c⟩

theorem sendHello_onlyLink (s : State) (dst : NodeId) : OnlyLink s (sendHello s dst) := by
  obtain ⟨P, O, h, _⟩ := sendHello_frame s dst
  exact OnlyLink.of_eq h

/-- A numbered transaction joins those unanswered; ports and peers change, and nothing else. -/
theorem sendOn_frame (s : State) (pref ty vc : Nat) (dst : NodeId) (a b : W64) (body : List Byte) (why : Purpose) :
    ∃ P Q O x, sendOn s pref ty vc dst a b body why = { s with lnk := { s.lnk with ports := P, peers := Q, sent := s.lnk.sent ++ [x] }, out := O }
      ∧ x.why = why ∧ x.txn.dst = dst ∧ x.txn.ttype = BitVec.ofNat 8 ty ∧ x.txn.body = body ∧ O.host = s.out.host ∧ O.msi = s.out.msi := by
  unfold sendOn
  dsimp only
  split
  · split
    · obtain ⟨P, O, l, h, _, b, c⟩ := emit_frame _ _ pref
      exact ⟨P, _, O, _, h.trans rfl, rfl, rfl, rfl, rfl, b, c⟩
    · exact ⟨_, _, _, _, rfl, rfl, rfl, rfl, rfl, rfl, rfl⟩
  · obtain ⟨P0, O0, h0, b0, c0⟩ := sendHello_frame s dst
    rw [h0]
    split
    · obtain ⟨P, O, l, h, _, b, c⟩ := emit_frame _ _ pref
      exact ⟨P, _, O, _, h.trans rfl, rfl, rfl, rfl, rfl, b.trans b0, c.trans c0⟩
    · exact ⟨_, _, _, _, rfl, rfl, rfl, rfl, rfl, b0, c0⟩

theorem sendTxn_frame (s : State) (ty vc : Nat) (dst : NodeId) (a b : W64) (body : List Byte) (why : Purpose) :
    ∃ P Q O x, sendTxn s ty vc dst a b body why = { s with lnk := { s.lnk with ports := P, peers := Q, sent := s.lnk.sent ++ [x] }, out := O }
      ∧ x.why = why ∧ x.txn.dst = dst ∧ x.txn.ttype = BitVec.ofNat 8 ty ∧ x.txn.body = body ∧ O.host = s.out.host ∧ O.msi = s.out.msi :=
  sendOn_frame s 0 ty vc dst a b body why

/-- An answer changes ports and peers only. -/
theorem sendAnswer_frame (s : State) (t : Txn) :
    ∃ P Q O, sendAnswer s t = { s with lnk := { s.lnk with ports := P, peers := Q }, out := O } ∧ O.host = s.out.host ∧ O.msi = s.out.msi := by
  unfold sendAnswer
  dsimp only
  split
  · obtain ⟨P, O, l, h, _, b, c⟩ := emit_frame s t 0
    exact ⟨P, _, O, h.trans rfl, b, c⟩
  · obtain ⟨P0, O0, h0, b0, c0⟩ := sendHello_frame s t.dst
    rw [h0]
    obtain ⟨P, O, l, h, _, b, c⟩ := emit_frame _ t 0
    exact ⟨P, _, O, h.trans rfl, b.trans b0, c.trans c0⟩

theorem sendAnswer_onlyLink (s : State) (t : Txn) : OnlyLink s (sendAnswer s t) := by
  obtain ⟨P, Q, O, h, _⟩ := sendAnswer_frame s t
  exact OnlyLink.of_eq h

theorem foldl_onlyLink {β : Type} (f : State → β → State) (h : ∀ s b, OnlyLink s (f s b)) (l : List β) (s : State) : OnlyLink s (l.foldl f s) := by
  induction l generalizing s with
  | nil => rfl
  | cons b r ih => exact (h s b).trans (ih _)

theorem helloAll_onlyLink (s : State) : OnlyLink s (helloAll s) := foldl_onlyLink _ (fun s _ => sendHello_onlyLink s _) _ s

theorem movePort_onlyLink (s : State) (p : Nat) (f : Port → Port) : OnlyLink s (movePort s p f) := by
  unfold movePort portsChanged
  split
  · rfl
  · exact OnlyLink.trans (t := { modPort s p f with lnk := _ }) rfl (helloAll_onlyLink _)

theorem portDown_onlyLink (s : State) (p st cause : Nat) : OnlyLink s (portDown s p st cause) := movePort_onlyLink s p _
theorem retrain_onlyLink (s : State) (p : Nat) : OnlyLink s (retrain s p) := movePort_onlyLink s p _

theorem pumpPort_onlyLink (s : State) (p : Nat) : OnlyLink s (pumpPort s p) := by
  obtain ⟨P, O, h, _⟩ := pump_frame p (portOf s p).waitq.length s
  exact OnlyLink.of_eq h

theorem emit_onlyLink (s : State) (t : Txn) (p0 : Nat) : OnlyLink s (emit s t p0) := by
  obtain ⟨P, O, l, h, _⟩ := emit_frame s t p0
  exact OnlyLink.of_eq h

theorem sendTxn_onlyLink (s : State) (ty vc : Nat) (dst : NodeId) (a b : W64) (body : List Byte) (why : Purpose) :
    OnlyLink s (sendTxn s ty vc dst a b body why) := by
  obtain ⟨P, Q, O, x, h, _⟩ := sendTxn_frame s ty vc dst a b body why
  exact OnlyLink.of_eq h

theorem heard_onlyLink (s : State) (t : Txn) : OnlyLink s (heard s t) := rfl

/-! ### Flits -/

@[simp] theorem natLe_length (n x : Nat) : (natLe n x).length = n := by
  induction n generalizing x with
  | zero => rfl
  | succ n ih => simp [natLe, ih]

/-- Reading back what was written. -/
theorem leNat_natLe (n x : Nat) : leNat (natLe n x) = x % 256 ^ n := by
  induction n generalizing x with
  | zero => simp [natLe, leNat, Nat.mod_one]
  | succ n ih =>
    have h8 : (2 : Nat) ^ 8 = 256 := rfl
    rw [natLe, leNat, ih, BitVec.toNat_ofNat, h8, Nat.pow_succ, Nat.mul_comm (256 ^ n) 256, Nat.mod_mul]

theorem slice_length (l : List Byte) (o n : Nat) : (slice l o n).length = n := by
  simp only [slice, List.length_append, List.length_replicate, List.length_take, List.length_drop]
  omega

theorem crcStep_lt (c : Nat) (b : Bool) : crcStep c b < 2 ^ 64 := by
  have h : c * 2 % 2 ^ 64 < 2 ^ 64 := Nat.mod_lt _ (by decide)
  cases hb : (bit c 63 != b) <;> simp only [crcStep, hb]
  · exact h
  · exact Nat.xor_lt_two_pow h (by decide)

theorem foldl_lt {α : Type} (f : Nat → α → Nat) (b : Nat) (h : ∀ c x, c < b → f c x < b) (l : List α) : ∀ c, c < b → l.foldl f c < b := by
  induction l with
  | nil => intro c hc; exact hc
  | cons x r ih => intro c hc; exact ih _ (h c x hc)

theorem crc64_lt (l : List Byte) : crc64 l < 2 ^ 64 := by
  refine Nat.xor_lt_two_pow (foldl_lt _ _ (fun c x hc => foldl_lt _ _ (fun c i _ => crcStep_lt c _) _ c hc) l _ (by decide)) (by decide)

/-- Every flit that a device makes carries a CRC that holds. -/
theorem crcOk_mkFlit (h : Nat) (p : List Byte) : crcOk (mkFlit h p) = true := by
  obtain ⟨x, hx, hl⟩ : ∃ x, x = natLe 8 h ++ slice p 0 624 ∧ x.length = 632 := ⟨_, rfl, by simp [slice_length]⟩
  have hm : mkFlit h p = x ++ natLe 8 (crc64 x) := by rw [hx]; rfl
  have h1 : slice (x ++ natLe 8 (crc64 x)) 0 632 = x := by
    rw [slice, List.drop_zero, ← hl, List.take_left]
    simp
  have h2 : slice (x ++ natLe 8 (crc64 x)) 632 8 = natLe 8 (crc64 x) := by
    rw [slice, ← hl, List.drop_left, List.take_of_length_le (by simp)]
    simp
  rw [crcOk, hm, h1, h2, leNat_natLe]
  exact decide_eq_true (Nat.mod_eq_of_lt (crc64_lt x)).symm

end Sys2Proof.Machine
end

