-- ==== Sys2Proof/WellFormed.lean ====
section
/-! DEFINITION. Which operands of a command its rule admits. The meanings are total; these checks say what a sender
of commands may put in the queue. -/

namespace Sys2Proof

/-- A tile number names a tile (R33). -/
def tileOk (t : TileNo) : Bool := t.toNat % 16 < 11

/-- A transaction is 32 to 9,984 bytes long, its header included, and its length field says so (R353). -/
def Txn.ok (t : Txn) : Bool := t.body.length ≤ 9952 && t.tlen.toNat == 32 + t.body.length

/-- A flit is 640 bytes (R344). -/
def RxFlit.ok (f : RxFlit) : Bool := f.bytes.length == 640

/-- A sample names a tile and one of its 24 monitors (R440). -/
def Sample.ok (x : Sample) : Bool := tileOk x.tile && x.mon.toNat < 24

/-- A lane map gives eight distinct physical lanes (R340). -/
def laneMapOk (m : List (Fin 9)) : Bool := m.length == 8 && m.eraseDups.length == 8

/-- An access size of the host link (R569): 1, 2, 4 or 8 bytes. -/
def sizeOk (n : Nat) : Bool := n == 1 || n == 2 || n == 4 || n == 8

/-- The operands of a command are those its rule admits. -/
def Instr.wf : Instr → Bool
  | .push t | .pushResp t | .write t | .read t | .readData t | .ack t | .remoteSignal t | .unreach t | .hello t
  | .seg t | .abort t | .count t | .accept t | .caravan t | .returnRows t | .mirror t | .withdraw t | .done t
  | .beat t | .lost t | .page t | .snapsync t | .adopt t | .journal t | .rebuild t | .restore t | .release t
  | .transactionDiscard t => t.ok
  | .nop t _ | .vld t _ | .vst t _ | .vmov t _ => tileOk t
  | .endProg t | .idle t | .waitx t | .loop t | .lds t | .sts t | .mma t | .zat t | .vadd t | .vsub t | .vmul t
  | .vfma t | .vdiv t | .vsqrt t | .vmin t | .vmax t | .vcvt t | .tmrg t | .outboundQueueFree t | .imBankSwitch t
  | .transferComplete t _ | .imLoadDone t _ | .drain t _ _ | .tileSelftestDone t _ _ => tileOk t
  | .heldJobService t n => tileOk t && tileOk n
  | .replayDecision t _ _ _ _ _ => tileOk t
  | .thirdReplayDecision t t3 _ => tileOk t && tileOk t3
  | .monitorSample l => l.all Sample.ok
  | .dataFlit _ f | .ackFlit _ f | .nakFlit _ f | .idleFlit _ f | .linkUpFlit _ f _ _ _ _ => f.ok
  | .laneMapFlit _ f m _ _ => f.ok && laneMapOk m
  | .fabricLinkFail a b => a != b
  | .registerWrite _ b _ n _ _ => b != 2 && sizeOk n
  | .bar4Write _ _ d _ => 1 ≤ d.length && d.length ≤ 4096
  | .bar4Read _ _ n => 1 ≤ n && n ≤ 4096
  | .selftest f _ kv kf l => f.all tileOk && kv.length == 16 && kf.length == 16 && l.all Sample.ok
  | .challenge _ n c => n ≤ 1 && c.length == 32
  | .getMeasurements _ _ c => c.length == 32
  | .getCertificate _ n _ _ => n ≤ 1
  | _ => true

end Sys2Proof
end

