-- ==== Sys2Proof/Laws/PerInstr.lean ====
section
/-! SUPPORT. Per command, what its well-formed operands are: numbers within the ranges and lengths of their rules. -/

namespace Sys2Proof.Laws.OperandsInRange

/-- A transaction's length field gives its header and body, at most 9,984 bytes in all (R353). -/
def TxnSized (t : Txn) : Prop := t.tlen.toNat = 32 + t.body.length ∧ 32 + t.body.length ≤ 9984

/-- A tile number names one of a cluster's eleven tiles (R33). -/
def Named (t : TileNo) : Prop := t.toNat % 16 < 11

/-- A received flit holds 640 bytes (R344). -/
def Whole (f : RxFlit) : Prop := f.bytes.length = 640

/-- What the operands of a well-formed command satisfy. -/
def Statement (i : Instr) : Prop :=
  i.wf = true → match i with
  | .push t | .pushResp t | .write t | .read t | .readData t | .ack t | .remoteSignal t | .unreach t | .hello t | .seg t
  | .abort t | .count t | .accept t | .caravan t | .returnRows t | .mirror t | .withdraw t | .done t | .beat t | .lost t | .page t
  | .snapsync t | .adopt t | .journal t | .rebuild t | .restore t | .release t | .transactionDiscard t => TxnSized t
  | .endProg t | .idle t | .waitx t | .loop t | .lds t | .sts t | .mma t | .zat t | .vadd t | .vsub t | .vmul t | .vfma t
  | .vdiv t | .vsqrt t | .vmin t | .vmax t | .vcvt t | .tmrg t | .outboundQueueFree t | .imBankSwitch t => Named t
  | .nop t _ | .vld t _ | .vst t _ | .vmov t _ | .transferComplete t _ | .imLoadDone t _ => Named t
  | .drain t _ _ | .tileSelftestDone t _ _ => Named t
  | .heldJobService t n => Named t ∧ Named n
  | .replayDecision t _ _ _ _ _ => Named t
  | .thirdReplayDecision t n _ => Named t ∧ Named n
  | .monitorSample l => ∀ x ∈ l, Named x.tile ∧ x.mon.toNat < 24
  | .dataFlit _ f | .ackFlit _ f | .nakFlit _ f | .idleFlit _ f | .linkUpFlit _ f _ _ _ _ => Whole f
  | .laneMapFlit _ f m _ _ => Whole f ∧ m.length = 8
  | .fabricLinkFail a b => a ≠ b
  | .registerWrite _ b _ n _ _ => b.val < 2 ∧ n ∣ 8
  | .bar4Write _ _ d _ => 1 ≤ d.length ∧ d.length ≤ 4096
  | .bar4Read _ _ n => 1 ≤ n ∧ n ≤ 4096
  | .selftest f _ kv kf l => (∀ t ∈ f, Named t) ∧ kv.length = 16 ∧ kf.length = 16 ∧ ∀ x ∈ l, Named x.tile ∧ x.mon.toNat < 24
  | .challenge _ n c => n ≤ 1 ∧ c.length = 32
  | .getMeasurements _ _ c => c.length = 32
  | .getCertificate _ n _ _ => n ≤ 1
  | _ => True

theorem of_txn {t : Txn} (h : t.ok = true) : TxnSized t := by
  simp only [Txn.ok, Bool.and_eq_true, decide_eq_true_eq, beq_iff_eq] at h
  exact ⟨h.2, by omega⟩

theorem of_tile {t : TileNo} (h : tileOk t = true) : Named t := by
  simpa [tileOk, Named] using h

theorem of_flit {f : RxFlit} (h : f.ok = true) : Whole f := by
  simpa [RxFlit.ok, Whole] using h

theorem of_sample {x : Sample} (h : x.ok = true) : Named x.tile ∧ x.mon.toNat < 24 := by
  simp only [Sample.ok, Bool.and_eq_true, decide_eq_true_eq] at h
  exact ⟨of_tile h.1, h.2⟩

theorem of_two {t n : TileNo} (h : (tileOk t && tileOk n) = true) : Named t ∧ Named n := by
  rw [Bool.and_eq_true] at h
  exact ⟨of_tile h.1, of_tile h.2⟩

theorem copy (st : StreamId) (ph : Phase) : Statement (.copy st ph) := fun _ => trivial
theorem gather (st : StreamId) (ph : Phase) : Statement (.gather st ph) := fun _ => trivial
theorem scatter (st : StreamId) (ph : Phase) : Statement (.scatter st ph) := fun _ => trivial
theorem matmul (st : StreamId) (ph : Phase) : Statement (.matmul st ph) := fun _ => trivial
theorem gmatmul (st : StreamId) (ph : Phase) : Statement (.gmatmul st ph) := fun _ => trivial
theorem ewise (st : StreamId) (ph : Phase) : Statement (.ewise st ph) := fun _ => trivial
theorem reduce (st : StreamId) (ph : Phase) : Statement (.reduce st ph) := fun _ => trivial
theorem topk (st : StreamId) (ph : Phase) : Statement (.topk st ph) := fun _ => trivial
theorem runProgram (st : StreamId) (ph : Phase) : Statement (.runProgram st ph) := fun _ => trivial
theorem allreduce (st : StreamId) (ph : Phase) : Statement (.allreduce st ph) := fun _ => trivial
theorem reduceScatter (st : StreamId) (ph : Phase) : Statement (.reduceScatter st ph) := fun _ => trivial
theorem allgather (st : StreamId) (ph : Phase) : Statement (.allgather st ph) := fun _ => trivial
theorem dispatch (st : StreamId) (ph : Phase) : Statement (.dispatch st ph) := fun _ => trivial
theorem combine (st : StreamId) (ph : Phase) : Statement (.combine st ph) := fun _ => trivial
theorem optUpdate (st : StreamId) (ph : OptPhase) : Statement (.optUpdate st ph) := fun _ => trivial
theorem initStep (st : StreamId) (ph : Phase) : Statement (.initStep st ph) := fun _ => trivial
theorem scan (st : StreamId) (ph : Phase) : Statement (.scan st ph) := fun _ => trivial
theorem agree (st : StreamId) (ph : Phase) : Statement (.agree st ph) := fun _ => trivial
theorem commit (st : StreamId) (ph : Phase) : Statement (.commit st ph) := fun _ => trivial
theorem initTscale (st : StreamId) (ph : Phase) : Statement (.initTscale st ph) := fun _ => trivial
theorem quant (st : StreamId) (ph : Phase) : Statement (.quant st ph) := fun _ => trivial
theorem signal (st : StreamId) (ph : Phase) : Statement (.signal st ph) := fun _ => trivial
theorem wait (st : StreamId) (ph : Phase) : Statement (.wait st ph) := fun _ => trivial
theorem fence (st : StreamId) (ph : Phase) : Statement (.fence st ph) := fun _ => trivial
theorem snapBegin (st : StreamId) (ph : Phase) : Statement (.snapBegin st ph) := fun _ => trivial
theorem snapEnd (st : StreamId) (ph : Phase) : Statement (.snapEnd st ph) := fun _ => trivial
theorem digestCompute (st : StreamId) (ph : Phase) : Statement (.digestCompute st ph) := fun _ => trivial
theorem digestCompare (st : StreamId) (ph : Phase) : Statement (.digestCompare st ph) := fun _ => trivial
theorem digestGroup (st : StreamId) (ph : Phase) : Statement (.digestGroup st ph) := fun _ => trivial
theorem trace (st : StreamId) (ph : Phase) : Statement (.trace st ph) := fun _ => trivial
theorem loadProgram (st : StreamId) (ph : Phase) : Statement (.loadProgram st ph) := fun _ => trivial
theorem loadProgramDirect (st : StreamId) (ph : Phase) : Statement (.loadProgramDirect st ph) := fun _ => trivial
theorem dbPiWrite (sec : Bool) (st : StreamId) (pi : BitVec 32) : Statement (.dbPiWrite sec st pi) := fun _ => trivial
theorem push (t : Txn) : Statement (.push t) := of_txn
theorem pushResp (t : Txn) : Statement (.pushResp t) := of_txn
theorem commandStart (st : StreamId) : Statement (.commandStart st) := fun _ => trivial
theorem workspaceWaitPlan (st : StreamId) : Statement (.workspaceWaitPlan st) := fun _ => trivial
theorem phasePublish (st : StreamId) : Statement (.phasePublish st) := fun _ => trivial
theorem tileTake (c : Fin 16) : Statement (.tileTake c) := fun _ => trivial
theorem commandComplete (st : StreamId) : Statement (.commandComplete st) := fun _ => trivial
theorem completionEntryWrite (st : StreamId) : Statement (.completionEntryWrite st) := fun _ => trivial
theorem streamCloseEffect (st : StreamId) : Statement (.streamCloseEffect st) := fun _ => trivial
theorem escortTimeout (st : StreamId) : Statement (.escortTimeout st) := fun _ => trivial
theorem nop (t : TileNo) (sl : TileSlot) : Statement (.nop t sl) := of_tile
theorem endProg (t : TileNo) : Statement (.endProg t) := of_tile
theorem idle (t : TileNo) : Statement (.idle t) := of_tile
theorem waitx (t : TileNo) : Statement (.waitx t) := of_tile
theorem loop (t : TileNo) : Statement (.loop t) := of_tile
theorem lds (t : TileNo) : Statement (.lds t) := of_tile
theorem sts (t : TileNo) : Statement (.sts t) := of_tile
theorem mma (t : TileNo) : Statement (.mma t) := of_tile
theorem zat (t : TileNo) : Statement (.zat t) := of_tile
theorem vadd (t : TileNo) : Statement (.vadd t) := of_tile
theorem vsub (t : TileNo) : Statement (.vsub t) := of_tile
theorem vmul (t : TileNo) : Statement (.vmul t) := of_tile
theorem vfma (t : TileNo) : Statement (.vfma t) := of_tile
theorem vdiv (t : TileNo) : Statement (.vdiv t) := of_tile
theorem vsqrt (t : TileNo) : Statement (.vsqrt t) := of_tile
theorem vmin (t : TileNo) : Statement (.vmin t) := of_tile
theorem vmax (t : TileNo) : Statement (.vmax t) := of_tile
theorem vcvt (t : TileNo) : Statement (.vcvt t) := of_tile
theorem vld (t : TileNo) (sl : TileSlot) : Statement (.vld t sl) := of_tile
theorem vst (t : TileNo) (sl : TileSlot) : Statement (.vst t sl) := of_tile
theorem vmov (t : TileNo) (sl : TileSlot) : Statement (.vmov t sl) := of_tile
theorem drain (t : TileNo) (fault : Option TileFault) (full : Bool) : Statement (.drain t fault full) := of_tile
theorem tmrg (t : TileNo) : Statement (.tmrg t) := of_tile
theorem transferComplete (t : TileNo) (tok : Fin 16) : Statement (.transferComplete t tok) := of_tile
theorem outboundQueueFree (t : TileNo) : Statement (.outboundQueueFree t) := of_tile
theorem imLoadDone (t : TileNo) (bankB : Bool) : Statement (.imLoadDone t bankB) := of_tile
theorem imBankSwitch (t : TileNo) : Statement (.imBankSwitch t) := of_tile
theorem trapScan (st : StreamId) : Statement (.trapScan st) := fun _ => trivial
theorem scheduleFaultResolve (st : StreamId) : Statement (.scheduleFaultResolve st) := fun _ => trivial
theorem uncorrectableCommandFail (st : StreamId) : Statement (.uncorrectableCommandFail st) := fun _ => trivial
theorem heldJobService (t : TileNo) (nb : TileNo) : Statement (.heldJobService t nb) := of_two
theorem replayDecision (t : TileNo) (devS devN : List (Nat × BitVec 256)) (chkS chkN recomp : Bool) : Statement (.replayDecision t devS devN chkS chkN recomp) := of_tile
theorem thirdReplayDecision (t t3 : TileNo) (dev : Option (List (Nat × BitVec 256))) : Statement (.thirdReplayDecision t t3 dev) := of_two
theorem tileSelftestDone (t : TileNo) (pass : Bool) (level : Fin 8) : Statement (.tileSelftestDone t pass level) := of_tile
theorem spareFillDone (c : Fin 16) (pass : Bool) : Statement (.spareFillDone c pass) := fun _ => trivial
theorem shadowCompare (st : StreamId) (job : Nat) (prim shad third again : List (Nat × Byte)) : Statement (.shadowCompare st job prim shad third again) := fun _ => trivial
theorem clusterRegulatorFault (c : Fin 16) : Statement (.clusterRegulatorFault c) := fun _ => trivial
theorem regulatorSelftestDone (c : Fin 16) (pass : Bool) : Statement (.regulatorSelftestDone c pass) := fun _ => trivial
theorem activeLockstepMismatch : Statement .activeLockstepMismatch := fun _ => trivial
theorem standbyLockstepMismatch : Statement .standbyLockstepMismatch := fun _ => trivial
theorem planeSelftestDone (pass : Bool) : Statement (.planeSelftestDone pass) := fun _ => trivial
theorem fabricLinkFail (d1 d2 : Fin 6) : Statement (.fabricLinkFail d1 d2) := by
  intro h
  simpa [Instr.wf] using h
theorem rootPllUnlock : Statement .rootPllUnlock := fun _ => trivial
theorem dieLoss (p : Part) : Statement (.dieLoss p) := fun _ => trivial
theorem retentionRebuildDone : Statement .retentionRebuildDone := fun _ => trivial
theorem monitorSample (samples : List Sample) : Statement (.monitorSample samples) := fun h x hx => of_sample (List.all_eq_true.mp h x hx)
theorem marginReplan (c : Fin 16) : Statement (.marginReplan c) := fun _ => trivial
theorem scrubRead (hbm : Bool) (err : BitVec 288) : Statement (.scrubRead hbm err) := fun _ => trivial
theorem hbmRowRetire (k : Fin 8) (pc : BitVec 5) (blk : Nat) : Statement (.hbmRowRetire k pc blk) := fun _ => trivial
theorem hbmPprDone (at_ : Channel) (ok : Bool) : Statement (.hbmPprDone at_ ok) := fun _ => trivial
theorem stageBlockDone (st : StreamId) (blk : Nat) : Statement (.stageBlockDone st blk) := fun _ => trivial
theorem dataFlit (p : Fin 8) (f : RxFlit) : Statement (.dataFlit p f) := of_flit
theorem ackFlit (p : Fin 8) (f : RxFlit) : Statement (.ackFlit p f) := of_flit
theorem nakFlit (p : Fin 8) (f : RxFlit) : Statement (.nakFlit p f) := of_flit
theorem idleFlit (p : Fin 8) (f : RxFlit) : Statement (.idleFlit p f) := of_flit
theorem laneMapFlit (p : Fin 8) (f : RxFlit) (map : List (Fin 9)) (gen : BitVec 4) (eff : BitVec 12) : Statement (.laneMapFlit p f map gen eff) := by
  intro h
  simp only [Instr.wf, laneMapOk, Bool.and_eq_true, beq_iff_eq] at h
  exact ⟨of_flit h.1, h.2.1⟩
theorem linkUpFlit (p : Fin 8) (f : RxFlit) (plane : BitVec 4) (swPort : Nat) (domain : BitVec 16) (cv : List Nat) : Statement (.linkUpFlit p f plane swPort domain cv) := of_flit
theorem laneFail (p : Fin 8) (lane : Fin 9) : Statement (.laneFail p lane) := fun _ => trivial
theorem laneMapSwitch (p : Fin 8) : Statement (.laneMapSwitch p) := fun _ => trivial
theorem codewordLockLoss (p : Fin 8) : Statement (.codewordLockLoss p) := fun _ => trivial
theorem portRetrainDone (p : Fin 8) (ok : Bool) : Statement (.portRetrainDone p ok) := fun _ => trivial
theorem ackInterval (p : Fin 8) : Statement (.ackInterval p) := fun _ => trivial
theorem linkUpRetry (p : Fin 8) : Statement (.linkUpRetry p) := fun _ => trivial
theorem write (t : Txn) : Statement (.write t) := of_txn
theorem read (t : Txn) : Statement (.read t) := of_txn
theorem readData (t : Txn) : Statement (.readData t) := of_txn
theorem ack (t : Txn) : Statement (.ack t) := of_txn
theorem remoteSignal (t : Txn) : Statement (.remoteSignal t) := of_txn
theorem unreach (t : Txn) : Statement (.unreach t) := of_txn
theorem hello (t : Txn) : Statement (.hello t) := of_txn
theorem seg (t : Txn) : Statement (.seg t) := of_txn
theorem abort (t : Txn) : Statement (.abort t) := of_txn
theorem count (t : Txn) : Statement (.count t) := of_txn
theorem accept (t : Txn) : Statement (.accept t) := of_txn
theorem caravan (t : Txn) : Statement (.caravan t) := of_txn
theorem returnRows (t : Txn) : Statement (.returnRows t) := of_txn
theorem mirror (t : Txn) : Statement (.mirror t) := of_txn
theorem withdraw (t : Txn) : Statement (.withdraw t) := of_txn
theorem done (t : Txn) : Statement (.done t) := of_txn
theorem beat (t : Txn) : Statement (.beat t) := of_txn
theorem lost (t : Txn) : Statement (.lost t) := of_txn
theorem page (t : Txn) : Statement (.page t) := of_txn
theorem snapsync (t : Txn) : Statement (.snapsync t) := of_txn
theorem adopt (t : Txn) : Statement (.adopt t) := of_txn
theorem journal (t : Txn) : Statement (.journal t) := of_txn
theorem rebuild (t : Txn) : Statement (.rebuild t) := of_txn
theorem restore (t : Txn) : Statement (.restore t) := of_txn
theorem release (t : Txn) : Statement (.release t) := of_txn
theorem transactionDiscard (t : Txn) : Statement (.transactionDiscard t) := of_txn
theorem e2eTimeout (dst : NodeId) (eseq : BitVec 32) : Statement (.e2eTimeout dst eseq) := fun _ => trivial
theorem e2eGiveUp (dst : NodeId) (eseq : BitVec 32) : Statement (.e2eGiveUp dst eseq) := fun _ => trivial
theorem beatTimer : Statement .beatTimer := fun _ => trivial
theorem lossTimeout (n : NodeId) : Statement (.lossTimeout n) := fun _ => trivial
theorem portsDownTimeout : Statement .portsDownTimeout := fun _ => trivial
theorem sealInterval : Statement .sealInterval := fun _ => trivial
theorem evidenceLogWrite : Statement .evidenceLogWrite := fun _ => trivial
theorem governorTick (u : Nat) (e : Int) (pin : Nat) : Statement (.governorTick u e pin) := fun _ => trivial
theorem thermalTick (tj thbm : Nat) : Statement (.thermalTick tj thbm) := fun _ => trivial
theorem softStart (vin : Nat) : Statement (.softStart vin) := fun _ => trivial
theorem inputCollapse (vin : Nat) : Statement (.inputCollapse vin) := fun _ => trivial
theorem inputOvervoltage (vin : Nat) : Statement (.inputOvervoltage vin) := fun _ => trivial
theorem inputRestart (vin : Nat) : Statement (.inputRestart vin) := fun _ => trivial
theorem junctionShutdown (tj : Nat) : Statement (.junctionShutdown tj) := fun _ => trivial
theorem opticalOverpower (p : Fin 8) : Statement (.opticalOverpower p) := fun _ => trivial
theorem referenceLost : Statement .referenceLost := fun _ => trivial
theorem referenceReturn : Statement .referenceReturn := fun _ => trivial
theorem hostReferenceLost : Statement .hostReferenceLost := fun _ => trivial
theorem seatDeassert : Statement .seatDeassert := fun _ => trivial
theorem coldRst : Statement .coldRst := fun _ => trivial
theorem coldRstRelease : Statement .coldRstRelease := fun _ => trivial
theorem perst (asserted : Bool) : Statement (.perst asserted) := fun _ => trivial
theorem functionLevelReset : Statement .functionLevelReset := fun _ => trivial
theorem warmReset : Statement .warmReset := fun _ => trivial
theorem bootRomStart : Statement .bootRomStart := fun _ => trivial
theorem configure : Statement .configure := fun _ => trivial
theorem selftest (failTiles : List TileNo) (failRegs : List (Fin 16)) (kv kf : List (BitVec 4)) (samples : List Sample) : Statement (.selftest failTiles failRegs kv kf samples) := by
  intro h
  simp only [Instr.wf, Bool.and_eq_true, List.all_eq_true, beq_iff_eq] at h
  exact ⟨fun t ht => of_tile (h.1.1.1 t ht), h.1.1.2, h.1.2, fun x hx => of_sample (h.2 x hx)⟩
theorem serviceEntry : Statement .serviceEntry := fun _ => trivial
theorem streamOpen (sec : Bool) : Statement (.streamOpen sec) := fun _ => trivial
theorem streamClose (sec : Bool) : Statement (.streamClose sec) := fun _ => trivial
theorem streamPause (sec : Bool) : Statement (.streamPause sec) := fun _ => trivial
theorem streamResume (sec : Bool) : Statement (.streamResume sec) := fun _ => trivial
theorem cmdSyncAdd (sec : Bool) (v : W64) : Statement (.cmdSyncAdd sec v) := fun _ => trivial
theorem cmdSyncMax (sec : Bool) (v : W64) : Statement (.cmdSyncMax sec v) := fun _ => trivial
theorem breakpointResume (sec : Bool) : Statement (.breakpointResume sec) := fun _ => trivial
theorem cmdFnDis (sec : Bool) (v : W64) : Statement (.cmdFnDis sec v) := fun _ => trivial
theorem cmdCringCfg (sec : Bool) (v : W64) : Statement (.cmdCringCfg sec v) := fun _ => trivial
theorem cmdCringHt (sec : Bool) (ring : BitVec 11) (head : BitVec 32) : Statement (.cmdCringHt sec ring head) := fun _ => trivial
theorem tilVoEnt (sec : Bool) (v : W64) : Statement (.tilVoEnt sec v) := fun _ => trivial
theorem portDisable (sec : Bool) (dis : Bool) : Statement (.portDisable sec dis) := fun _ => trivial
theorem portRetrain (sec : Bool) : Statement (.portRetrain sec) := fun _ => trivial
theorem laneReset (sec : Bool) : Statement (.laneReset sec) := fun _ => trivial
theorem groupCommit (sec : Bool) : Statement (.groupCommit sec) := fun _ => trivial
theorem groupInvalidate (sec : Bool) : Statement (.groupInvalidate sec) := fun _ => trivial
theorem tileSelftestRun (sec : Bool) : Statement (.tileSelftestRun sec) := fun _ => trivial
theorem returnAsSpare (sec : Bool) : Statement (.returnAsSpare sec) := fun _ => trivial
theorem marginReplanNow (sec : Bool) : Statement (.marginReplanNow sec) := fun _ => trivial
theorem jobResume (sec : Bool) : Statement (.jobResume sec) := fun _ => trivial
theorem jobRelease (sec : Bool) : Statement (.jobRelease sec) := fun _ => trivial
theorem jobReplay (sec : Bool) : Statement (.jobReplay sec) := fun _ => trivial
theorem pwrCapUser (sec : Bool) (v : W64) : Statement (.pwrCapUser sec v) := fun _ => trivial
theorem cfgApply (sec : Bool) : Statement (.cfgApply sec) := fun _ => trivial
theorem ownershipTransfer (sec : Bool) : Statement (.ownershipTransfer sec) := fun _ => trivial
theorem enterMaintenance (sec : Bool) : Statement (.enterMaintenance sec) := fun _ => trivial
theorem leaveMaintenance (sec : Bool) : Statement (.leaveMaintenance sec) := fun _ => trivial
theorem cfgWarmReset (sec : Bool) : Statement (.cfgWarmReset sec) := fun _ => trivial
theorem fwuBegin (sec : Bool) : Statement (.fwuBegin sec) := fun _ => trivial
theorem fwuWrite (sec : Bool) : Statement (.fwuWrite sec) := fun _ => trivial
theorem fwuInstall (sec : Bool) : Statement (.fwuInstall sec) := fun _ => trivial
theorem flashOperationDone (ok : Bool) : Statement (.flashOperationDone ok) := fun _ => trivial
theorem handover (sec : Bool) (fwSel cfgSel : Bool) (win : BitVec 16) : Statement (.handover sec fwSel cfgSel win) := fun _ => trivial
theorem standbyRebuildDone : Statement .standbyRebuildDone := fun _ => trivial
theorem fwuConfirm (sec : Bool) : Statement (.fwuConfirm sec) := fun _ => trivial
theorem fwuFallback (sec : Bool) : Statement (.fwuFallback sec) := fun _ => trivial
theorem healthWindowExpiry : Statement .healthWindowExpiry := fun _ => trivial
theorem healthSignalTimeout : Statement .healthSignalTimeout := fun _ => trivial
theorem formerPlaneRestartDone : Statement .formerPlaneRestartDone := fun _ => trivial
theorem ideLock (sec : Bool) : Statement (.ideLock sec) := fun _ => trivial
theorem ideCheckFail (strm : Fin 5) : Statement (.ideCheckFail strm) := fun _ => trivial
theorem registerWrite (sec : Bool) (bar : Fin 3) (off size : Nat) (v : W64) (poisoned : Bool) : Statement (.registerWrite sec bar off size v poisoned) := by
  intro h
  simp only [Instr.wf, sizeOk, Bool.and_eq_true, Bool.or_eq_true, beq_iff_eq, bne_iff_ne, ne_eq] at h
  refine ⟨?_, ?_⟩
  · have := h.1
    omega
  · rcases h.2 with ((h | h) | h) | h <;> subst h <;> decide
theorem bar4Write (sec : Bool) (off : Nat) (data : List Byte) (poisoned : Bool) : Statement (.bar4Write sec off data poisoned) := by
  intro h
  simpa [Instr.wf] using h
theorem bar4Read (sec : Bool) (off len : Nat) : Statement (.bar4Read sec off len) := by
  intro h
  simpa [Instr.wf] using h
theorem atomicopRequest (bar : Fin 3) (off : Nat) : Statement (.atomicopRequest bar off) := fun _ => trivial
theorem mctpRegisterRead (body : List Byte) : Statement (.mctpRegisterRead body) := fun _ => trivial
theorem mctpRegisterWrite (body : List Byte) : Statement (.mctpRegisterWrite body) := fun _ => trivial
theorem getVersion (tr : Transport) : Statement (.getVersion tr) := fun _ => trivial
theorem getCapabilities (tr : Transport) : Statement (.getCapabilities tr) := fun _ => trivial
theorem negotiateAlgorithms (tr : Transport) : Statement (.negotiateAlgorithms tr) := fun _ => trivial
theorem getDigests (tr : Transport) : Statement (.getDigests tr) := fun _ => trivial
theorem getCertificate (tr : Transport) (slot : Nat) (off len : Nat) : Statement (.getCertificate tr slot off len) := by
  intro h
  simpa [Instr.wf] using h
theorem challenge (tr : Transport) (slot : Nat) (nonce : List Byte) : Statement (.challenge tr slot nonce) := by
  intro h
  simpa [Instr.wf] using h
theorem getMeasurements (tr : Transport) (idx : Byte) (nonce : List Byte) : Statement (.getMeasurements tr idx nonce) := by
  intro h
  simpa [Instr.wf] using h
theorem keyExchange (tr : Transport) : Statement (.keyExchange tr) := fun _ => trivial
theorem finish (tr : Transport) (ses : Nat) (ok : Bool) : Statement (.finish tr ses ok) := fun _ => trivial
theorem heartbeat (tr : Transport) (ses : Nat) : Statement (.heartbeat tr ses) := fun _ => trivial
theorem keyUpdate (tr : Transport) (ses : Nat) : Statement (.keyUpdate tr ses) := fun _ => trivial
theorem endSession (tr : Transport) (ses : Nat) : Statement (.endSession tr ses) := fun _ => trivial
theorem laserModuleFail (lm1 : Bool) : Statement (.laserModuleFail lm1) := fun _ => trivial
theorem laserLatchOpen (lm1 : Bool) : Statement (.laserLatchOpen lm1) := fun _ => trivial
theorem laserLatchClose (lm1 seated known : Bool) : Statement (.laserLatchClose lm1 seated known) := fun _ => trivial
theorem laserSelftestDone (lm1 pass : Bool) : Statement (.laserSelftestDone lm1 pass) := fun _ => trivial
theorem laserRampDone (lm1 : Bool) : Statement (.laserRampDone lm1) := fun _ => trivial
theorem hostReferenceReturn : Statement .hostReferenceReturn := fun _ => trivial
theorem ideKm (ses : Nat) (strm : Fin 5) : Statement (.ideKm ses strm) := fun _ => trivial
theorem msixUnmask (vec : Option (BitVec 11)) : Statement (.msixUnmask vec) := fun _ => trivial
theorem busMasterEnable : Statement .busMasterEnable := fun _ => trivial
theorem handoverAborted : Statement .handoverAborted := fun _ => trivial
theorem declaredUnhealthy : Statement .declaredUnhealthy := fun _ => trivial
theorem opcodeRefused (st : StreamId) : Statement (.opcodeRefused st) := fun _ => trivial
theorem recordUnreadable (st : StreamId) : Statement (.recordUnreadable st) := fun _ => trivial

end Sys2Proof.Laws.OperandsInRange

theorem Sys2Proof.Laws.OperandsInRange.seal (st : Sys2Proof.StreamId) (ph : Sys2Proof.Phase) :
    Sys2Proof.Laws.OperandsInRange.Statement (.seal st ph) := fun _ => trivial
end

