-- ==== Sys2Proof/Laws/Streams.lean ====
section
/-! SUPPORT. Commands of a stream: finding an entry after it was changed, and what a record row does. -/

namespace Sys2Proof.Machine

/-- Changing the entry at the index where a search finds it keeps the search there. -/
theorem find_set {l : List Entry} {p : Entry → Bool} {i : Nat} {f : Entry → Entry} (hf : ∀ e, p (f e) = p e)
    (h : l.findIdx? p = some i) :
    ((l.take i) ++ ((l.drop i).take 1).map f ++ l.drop (i + 1)).find? p = (l.find? p).map f := by
  induction l generalizing i with
  | nil => simp at h
  | cons e r ih =>
    rw [List.findIdx?_cons] at h
    by_cases hp : p e = true
    · rw [if_pos hp] at h
      cases h
      simp [hf, hp]
    · rw [if_neg hp] at h
      rw [Option.map_eq_some_iff] at h
      obtain ⟨j, hj, rfl⟩ := h
      have := ih hj
      simp only [List.take_succ_cons, List.drop_succ_cons, List.cons_append, List.find?_cons_of_neg hp]
      exact this

/-- A command's entry after it was changed, where the change keeps its number. -/
theorem cmdOf_modCmd (s : State) (n : Nat) (q : W64) (f : Entry → Entry) (hf : ∀ e, (f e).refused = e.refused ∧ (f e).seq = e.seq) :
    cmdOf (modCmd s n q f) n q = (cmdOf s n q).map f := by
  unfold modCmd
  split
  · rename_i i h
    unfold cmdOf modEntry
    rw [strmOf_modStrm_same]
    exact find_set (fun e => by rw [(hf e).1, (hf e).2]) h
  · rename_i h
    have : cmdOf s n q = none := by
      unfold cmdOf
      unfold entryIx at h
      rw [List.findIdx?_eq_none_iff] at h
      rw [List.find?_eq_none]
      intro e he
      simpa using h e he
    rw [this]
    rfl

theorem strmOf_modEntry_ne (s : State) {n k : Nat} (h : k ≠ n) (i : Nat) (f : Entry → Entry) : strmOf (modEntry s n i f) k = strmOf s k :=
  strmOf_modStrm_ne s h _

theorem strmOf_modCmd_ne (s : State) {n k : Nat} (h : k ≠ n) (q : W64) (f : Entry → Entry) : strmOf (modCmd s n q f) k = strmOf s k := by
  unfold modCmd
  split
  · exact strmOf_modEntry_ne s h _ f
  · rfl

theorem modCmd_sync (s : State) (n : Nat) (q : W64) (f : Entry → Entry) : (modCmd s n q f).cmd.sync = s.cmd.sync := by
  unfold modCmd; split <;> rfl

/-- A record row runs the command that it acts on. -/
theorem recRow_run {s : State} {st : StreamId} {key : Nat} {e : Entry} (run : State → Nat → W64 → Entry → State)
    (h : Runs s st.toNat key e) : recRow s st .run key run = run s st.toNat e.seq e := by
  obtain ⟨h1, ⟨i, h2, h3⟩, _, h5, _, _⟩ := h
  unfold recRow
  simp [h1, h2, h3, h5]

theorem errWords_nil {m : Mem} (h : m.err = []) (a n : Nat) : errWords m a n = [] := by
  unfold errWords
  split
  · rfl
  · simp [h]

theorem badIn_nil {m : Mem} (h : m.err = []) (a n : Nat) : badIn m a n = [] := by
  unfold badIn
  rw [errWords_nil h]
  rfl

/-- Without a listed error a command names no word in error. -/
theorem namedErr_nil {m : Mem} (h : m.err = []) (rx : List Byte) : namedErr m rx = [] := by
  unfold namedErr
  have : ∀ l : List Rng, l.flatMap (fun r => errWords m r.a r.n) = [] := by
    intro l
    rw [List.flatMap_eq_nil_iff]
    exact fun r _ => errWords_nil h r.a r.n
  rw [this]
  rfl

/-- Without a listed error a command meets nothing uncorrectable. -/
theorem recBad_clean {s : State} (h : s.mem.err = []) (rx : List Byte) : recBad s rx = none := by
  unfold recBad
  rw [namedErr_nil h]
  rfl

/-- Without a listed error reading what a command names changes nothing. -/
theorem meetNamed_clean {s : State} (h : s.mem.err = []) (rx : List Byte) : meetNamed s rx = s := by
  unfold meetNamed
  rw [namedErr_nil h]
  rfl

theorem meetCmd_clean {s : State} (h : s.mem.err = []) (rx : List Byte) : meetCmd s rx = (s, none) := by
  unfold meetCmd
  rw [meetNamed_clean h, recBad_clean h]

theorem readWords_clean {s : State} (h : s.mem.err = []) (a n : Nat) : readWords s a n = (s, []) := by
  unfold readWords
  simp [errWords_nil h]

end Sys2Proof.Machine
end

