-- ==== Sys2Proof/Tests/Slice0.lean ====
section
/-! SUPPORT. Tests: what each check of WellFormed refuses, a witness for the hypotheses of each statement, and small checks of single steps
against values of the spec. -/

open Sys2Proof Sys2Proof.Machine

set_option Elab.async false


/-! ### States to test on -/

/-- The device in SERVICE with its host link up. -/
def served : State := { cfg := { st := .service, entered := true }, hif := { up := true, bme := true } }

/-- A 256-byte record: opcode, stream 1, sequence number, sub and prog, then its operands from offset 0x40. -/
def recOf (op seq sub prog : Nat) (ops : List Byte) : List Byte :=
  slice (natLe 8 (op + 1 <<< 32) ++ natLe 8 seq ++ natLe 32 0 ++ natLe 8 (sub <<< 8 + prog <<< 24) ++ natLe 8 0 ++ ops) 0 256

/-- A running command of stream 1. -/
def cmd1 (r : List Byte) : Entry := { seq := 0, st := .running, bytes := r }

/-- The served device with stream 1 open and one entry in its journal. -/
def run1 (e : Entry) : State := { served with cmd := { streams := [(1, { opened := true, journal := [e] })] } }

/-- The update units and the staging engines hold their grants. -/
def granted (s : State) : State :=
  { s with pwr := { s.pwr with held := ((List.range 8).map fun k => (.unit k, 1)) ++ (List.range 4).map fun k => (.staging k, 1) } }

theorem runs_of {s : State} {e : Entry} {key : Nat} (hs : s.cmd.streams = [(1, { opened := true, journal := [e] })]) (hr : runnable s 1 = true)
    (h1 : e.refused = false) (h2 : e.st = .running) (h3 : e.stop = none) (h4 : e.ran = false) (h5 : rowKey e.bytes = key) :
    Runs s (1 : StreamId).toNat key e := by
  have hx : strmOf s 1 = { opened := true, journal := [e] } := by
    unfold strmOf
    rw [hs]
    rfl
  refine ⟨hr, ⟨0, ?_, ?_⟩, h1, h3, h4, ?_⟩
  · change runningIx (strmOf s 1) key = some 0
    rw [hx]
    simp [runningIx, h1, h2, h5]
  · change (strmOf s 1).journal[0]? = some e
    rw [hx]
    rfl
  · change (strmOf s 1).journal.find? _ = some e
    rw [hx]
    simp [h1]

/-- The host's writes reach the registers of the served device. -/
theorem host_served : HostWrites served false := ⟨by decide, by decide, by decide, by decide⟩

/-! ### Ill-formed operands are refused -/

/-- A transaction of 32 bytes. -/
def txn0 : Txn := { ttype := 1, vc := 1, tlen := 32, src := 2, dst := 0, eseq := 0, inc := 0, a := 0, b := 0, body := [], plane := 0 }
def flit0 : RxFlit := { bytes := List.replicate 640 0, errs := [] }

theorem test_wf_txn : (Instr.write txn0).wf = true := by decide
theorem test_wf_txn_len : (Instr.write { txn0 with tlen := 33 }).wf = false := by decide
theorem test_wf_tile : (Instr.lds 0x0B).wf = false ∧ (Instr.nop 0x1F .m).wf = false ∧ (Instr.drain 0x0A none false).wf = true := by decide
theorem test_wf_two_tiles : (Instr.heldJobService 0 0x0F).wf = false ∧ (Instr.thirdReplayDecision 0x0C 0 none).wf = false := by decide
theorem test_wf_replay : (Instr.replayDecision 0x3E [] [] true true true).wf = false := by decide
theorem test_wf_sample : (Instr.monitorSample [{ tile := 0, mon := 24, val := 0 }]).wf = false := by decide
theorem test_wf_flit : (Instr.dataFlit 0 { flit0 with bytes := [] }).wf = false := by decide
theorem test_wf_lane_map : (Instr.laneMapFlit 0 flit0 [0, 1, 2, 3, 4, 5, 6, 6] 0 0).wf = false := by decide +kernel
theorem test_wf_fabric : (Instr.fabricLinkFail 2 2).wf = false := by decide
theorem test_wf_register : (Instr.registerWrite true 2 0 8 0 false).wf = false ∧ (Instr.registerWrite true 0 0 3 0 false).wf = false := by decide
theorem test_wf_bar4 : (Instr.bar4Write true 0 [] false).wf = false ∧ (Instr.bar4Read true 0 4097).wf = false := by decide
theorem test_wf_selftest : (Instr.selftest [] [] [] [] []).wf = false := by decide
theorem test_wf_spdm : (Instr.challenge .doe 2 []).wf = false ∧ (Instr.getMeasurements .doe 0 []).wf = false ∧ (Instr.getCertificate .doe 2 0 0).wf = false := by
  decide

/-! ### Witnesses: the whole machine -/

theorem witness_StepRunsFrontCommand : State.reset.pending = [] := rfl
theorem witness_StepKeepsMemoryCanonical : Memory.wf State.reset.mem = true ∧ step State.reset = .next State.reset := ⟨by decide, rfl⟩
theorem witness_CountersOnlyAdvance : step State.reset = .next State.reset := rfl
theorem witness_OnlyColdStartLeavesHold :
    ∃ s t : State, s.cfg.st = .hold ∧ step s = .next t ∧ t.cfg.st ≠ .hold :=
  ⟨{ cfg := { st := .hold }, pwr := { phase := .off }, pending := [.softStart 5400] }, _, rfl, rfl, by decide⟩

/-- A device that is off begins its soft start. -/
theorem witness_ColdStartMemoryReadsZero :
    let s : State := { pwr := { phase := .off, offCause := 1 }, mem := { cells := [(3, 1)], err := [] } }
    Instr.softStart 5400 ∈ [Instr.softStart 5400, .inputRestart 5400, .coldRstRelease] ∧ s.pwr.phase = .off
      ∧ (match exec (.softStart 5400) s with | .next t => t.pwr.phase = .soft | _ => False) := by
  refine ⟨by simp, rfl, rfl⟩

/-! ### Witnesses: command streams -/

/-- Stream 1 with one FENCE record waiting at the bottom of memory. -/
def fenceWaits : State :=
  { served with
    mem := { cells := [(0, 0x42), (4, 1)], err := [] }
    cmd := { streams := [(1, { opened := true, pi := 1 })] } }

theorem witness_RecordRowsAccept :
    (0x4200, Instr.fence) ∈ recordRows ∧ fenceWaits.mem.err = [] ∧ mayConsume fenceWaits 1 = true
      ∧ (let x := strmOf fenceWaits 1
         let r := rd fenceWaits.mem (slotAddr x x.ci) 256
         let s1 := modStrm fenceWaits 1 fun x => { x with ci := x.ci + 1 }
         rowKey r = 0x4200 ∧ famOf (rOpc r) ≠ none ∧ (readExt s1 r).2 = some [] ∧ escorted x = false
           ∧ decideRec s1 1 r (some []) (!bit x.cfg.toNat 2) = .accept) :=
  ⟨by simp [recordRows], by decide +kernel⟩

theorem witness_RecordsWaitOutsideService :
    let s : State := { fenceWaits with cfg := { st := .hold } }
    s.cfg.st ≠ .service ∧ s.cfg.st ≠ .maintenance ∧ (0x4200, Instr.fence) ∈ recordRows :=
  ⟨by decide, by decide, by simp [recordRows]⟩

/-- The same with opcode 0x0F, which no family has. -/
theorem witness_RefusedRecordsAreConsumed_1 :
    let s : State := { fenceWaits with mem := { cells := [(0, 0x0F), (4, 1)], err := [] } }
    let x := strmOf s 1
    let r := rd s.mem (slotAddr x x.ci) 256
    s.mem.err = [] ∧ mayConsume s 1 = true ∧ opPermitted s x r = false ∧ x.closing = false ∧ rStream r = 1 ∧ bit x.cfg.toNat 2 = false
      ∧ rSeq r = x.nseq := by
  decide +kernel

theorem witness_RefusedRecordsAreConsumed_2 :
    let s : State := { fenceWaits with mem := { cells := [], err := [(0, poisonPat false)] } }
    let x := strmOf s 1
    mayConsume s 1 = true ∧ (readWords s (slotAddr x x.ci) 256).2 ≠ [] ∧ (readWords s (slotAddr x x.ci) 256).1.cmd = s.cmd := by
  decide +kernel

/-- A local SIGNAL that adds 5 to sync object 3. -/
def sig : Entry := cmd1 (recOf 0x40 0 0 0 (natLe 8 3 ++ natLe 8 5))
theorem witness_SyncRowsRun_1 : Runs (run1 sig) (1 : StreamId).toNat 0x4000 sig ∧ bit (wordAt sig.bytes 0x40) 16 = false :=
  ⟨runs_of rfl (by decide) rfl rfl rfl rfl (by decide), by decide⟩

/-- A WAIT for 0 on sync object 3. -/
def wt : Entry := cmd1 (recOf 0x41 0 0 0 (natLe 8 3))
theorem witness_SyncRowsRun_2 :
    Runs (run1 wt) (1 : StreamId).toNat 0x4100 wt ∧ wordAt wt.bytes 0x48 ≤ (syncOf (run1 wt) (fieldAt wt.bytes 0x40 0 14)).toNat :=
  ⟨runs_of rfl (by decide) rfl rfl rfl rfl (by decide), by decide⟩

def fnc : Entry := cmd1 (recOf 0x42 0 0 0 [])
theorem witness_SyncRowsRun_3 :
    Runs (run1 fnc) (1 : StreamId).toNat 0x4200 fnc
      ∧ ∀ p ∈ (strmOf (run1 fnc) (1 : StreamId).toNat).journal.takeWhile fun p => p.refused || p.seq ≠ fnc.seq,
        p.st = .completed ∨ (bit (rSub fnc.bytes) 0 = false ∧ (p.st = .done ∨ p.refused = true)) :=
  ⟨runs_of rfl (by decide) rfl rfl rfl rfl (by decide), by decide⟩

theorem witness_LocalMovesRun :
    let e := cmd1 (recOf 0x01 0 0 0 [])
    Runs (run1 e) (1 : StreamId).toNat 0x100 e ∧ e.waits = [] ∧ (run1 e).mem.err = [] ∧ (parseDesc e.rx 0x40).rem = false
      ∧ (parseDesc e.rx (if rOpc e.rx = 1 then 0x80 else 0xC0)).rem = false :=
  ⟨runs_of rfl (by decide) rfl rfl rfl rfl (by decide), rfl, rfl, by decide, by decide⟩


/-! ### Witnesses: compute, program and optimizer rows -/

/-- A one-phase plan of one job. -/
def plan1 : Plan :=
  { s := 1, kp := 1, lc := 1, nb := 1, blocks := [(0, 1)], phases := [⟨0, 0, 1⟩], cur := 0, wsBytes := 0, anchor := 0, pid := 0, gen := 0 }

/-- An EWISE command that has its plan. -/
def ew : Entry := { cmd1 (recOf 0x12 0 0 0 []) with plan := some plan1 }
theorem witness_ComputeRowsRunTheirPlans :
    Runs (run1 ew) (1 : StreamId).toNat 0x1200 ew ∧ ew.plan = some plan1 ∧ (run1 ew).mem.err = [] ∧ usable (run1 ew) ≠ 0 :=
  ⟨runs_of rfl (by decide) rfl rfl rfl rfl (by decide), rfl, rfl, by decide +kernel⟩

/-- An EWISE of one element. -/
def ewr : Entry :=
  { cmd1 (slice (natLe 8 (0x12 + 1 <<< 32) ++ natLe 8 0 ++ natLe 8 1) 0 256) with plan := some plan1 }
theorem witness_SingleJobCommandsEnd :
    let r := (recEnv (run1 ewr).mem ewr.rx (BitVec.ofInt 12 plan1.anchor)).job plan1 ewr.vo.toNat ewr.work 0
    Runs (run1 ewr) (1 : StreamId).toNat 0x1200 ewr ∧ ewr.plan = some plan1 ∧ (run1 ewr).mem.err = [] ∧ usable (run1 ewr) ≠ 0
      ∧ plan1.phases.length = 1 ∧ plan1.cur = 0 ∧ (∃ kd, plan1.phases[0]? = some ⟨kd, 0, 1⟩) ∧ ewr.blocks = []
      ∧ stagedBlks (run1 ewr) (1 : StreamId).toNat ewr.seq = [] ∧ ewr.copies = [] ∧ ewr.redo = [] ∧ nlOf ewr.rx = 1 ∧ ewr.drained = [] ∧ ewr.shadowed = []
      ∧ isHeld (run1 ewr) (1 : StreamId).toNat ewr.seq 0 = false
      ∧ r.trap = 0 ∧ shadowed (run1 ewr) ewr (1 : StreamId).toNat 0 = false ∧ rOpc ewr.bytes * 256 = 0x1200 :=
  ⟨runs_of rfl (by decide) rfl rfl rfl rfl (by decide), rfl, rfl, by decide +kernel, rfl, rfl, ⟨0, rfl⟩, rfl, rfl, rfl, rfl, by decide +kernel, rfl, rfl, rfl,
    by decide +kernel, by decide +kernel, by decide⟩

/-- LOAD_PROGRAM of two units at address 0, where an image of one bundle and no descriptor lies. -/
def lpE : Entry := cmd1 (recOf 0x70 0 0 7 (natLe 8 0 ++ natLe 8 2))
def lpd : Entry := cmd1 (recOf 0x70 0 1 7 (natLe 8 0 ++ natLe 8 (2 + 1 <<< 18)))
def img1 (e : Entry) : State := { run1 e with mem := { cells := [(0, 1)], err := [] } }

theorem witness_ProgramLoadsRun_1 :
    Runs (run1 lpE) (1 : StreamId).toNat 0x7000 lpE ∧ (run1 lpE).mem.err = []
      ∧ imgOk (rd (run1 lpE).mem (wordAt lpE.bytes 0x40 % 2 ^ 44) (64 * fieldAt lpE.bytes 0x48 0 10)) (fieldAt lpE.bytes 0x48 0 10) = false :=
  ⟨runs_of rfl (by decide) rfl rfl rfl rfl (by decide), rfl, by decide +kernel⟩
theorem witness_ProgramLoadsRun_2 :
    Runs (img1 lpE) (1 : StreamId).toNat 0x7000 lpE ∧ (img1 lpE).mem.err = [] ∧ lpE.gen = none
      ∧ imgOk (rd (img1 lpE).mem (wordAt lpE.bytes 0x40 % 2 ^ 44) (64 * fieldAt lpE.bytes 0x48 0 10)) (fieldAt lpE.bytes 0x48 0 10) = true :=
  ⟨runs_of rfl (by decide) rfl rfl rfl rfl (by decide), rfl, rfl, by decide +kernel⟩
theorem witness_ProgramLoadsRun_3 :
    Runs (img1 lpd) (1 : StreamId).toNat 0x7001 lpd ∧ (img1 lpd).mem.err = [] ∧ lpd.gen = none
      ∧ imgOk (rd (img1 lpd).mem (wordAt lpd.bytes 0x40 % 2 ^ 44) (64 * fieldAt lpd.bytes 0x48 0 10)) (fieldAt lpd.bytes 0x48 0 10) = true
      ∧ bankBusy (tileOf (img1 lpd) (fieldAt lpd.bytes 0x48 10 8)) (bit (wordAt lpd.bytes 0x48) 18) = false :=
  ⟨runs_of rfl (by decide) rfl rfl rfl rfl (by decide), rfl, rfl, by decide +kernel, by decide +kernel⟩

def cmt : Entry := cmd1 (recOf 0x31 0 4 0 (natLe 8 0x1000))
theorem witness_CommitClosesTheStep :
    Runs (run1 cmt) (1 : StreamId).toNat 0x3104 cmt ∧ (run1 cmt).mem.err = [] ∧ addrLost (run1 cmt) (wordAt cmt.rx 0x40 % 2 ^ 44) = false :=
  ⟨runs_of rfl (by decide) rfl rfl rfl rfl (by decide), rfl, by decide +kernel⟩

def ini (sub : Nat) : Entry := cmd1 (recOf 0x31 0 sub 0 (natLe 8 0x1000))
theorem witness_ScaleRowsRun_1 :
    Runs (run1 (ini 1)) (1 : StreamId).toNat 0x3101 (ini 1) ∧ (run1 (ini 1)).mem.err = [] ∧ addrLost (run1 (ini 1)) (wordAt (ini 1).rx 0x40 % 2 ^ 44) = false :=
  ⟨runs_of rfl (by decide) rfl rfl rfl rfl (by decide), rfl, by decide +kernel⟩
theorem witness_ScaleRowsRun_2 :
    Runs (run1 (ini 5)) (1 : StreamId).toNat 0x3105 (ini 5) ∧ (run1 (ini 5)).mem.err = [] ∧ addrLost (run1 (ini 5)) (wordAt (ini 5).rx 0x40 % 2 ^ 44) = false :=
  ⟨runs_of rfl (by decide) rfl rfl rfl rfl (by decide), rfl, by decide +kernel⟩
theorem witness_ScaleRowsRun_3 :
    let s := granted (run1 (ini 2))
    Runs s (1 : StreamId).toNat 0x3102 (ini 2) ∧ s.mem.err = [] ∧ addrLost s (wordAt (ini 2).rx 0x40 % 2 ^ 44) = false
      ∧ unitsReady s (parseDesc (ini 2).rx 0x80) = true :=
  ⟨runs_of rfl (by decide) rfl rfl rfl rfl (by decide), rfl, by decide +kernel, by decide +kernel⟩

/-- OPT_UPDATE with a step record at 0x1000, whose divisor is 0 in empty memory, and one without a step record; its first chunk not begun,
staged, or done. -/
def optE (step : Nat) : Entry := { cmd1 (recOf 0x30 0 0 0 []) with ext := List.replicate 0xE0 0 ++ natLe 8 step ++ List.replicate 24 0 }
def optS : Entry := { optE 0 with chunk := some ⟨0, 0, [], [], 0⟩ }
def optD : Entry := { optE 0 with chunks := [(0, 0)] }
theorem witness_OptimizerAndQuantRun_1 :
    let e := optE 0x1000
    let sa := wordAt e.rx 0x1E0 % 2 ^ 44
    let r := parseStep (rd (run1 e).mem sa 128)
    Runs (run1 e) (1 : StreamId).toNat 0x3000 e ∧ sa ≠ 0 ∧ (r.nonfinite ≠ 0 ∨ r.d = 0) :=
  ⟨runs_of rfl (by decide) rfl rfl rfl rfl (by decide), by decide +kernel, by decide +kernel⟩
theorem witness_OptimizerAndQuantRun_2 :
    (Runs (granted (run1 (optE 0))) (1 : StreamId).toNat 0x3000 (optE 0) ∧ wordAt (optE 0).rx 0x1E0 % 2 ^ 44 = 0
        ∧ (optE 0).chunk = none ∧ nextChunk (granted (run1 (optE 0))) (optE 0) = some (0, 0))
      ∧ (chunksLeft (run1 (optE 0)) (optE 0) ≠ [] ∧ nextChunk (run1 (optE 0)) (optE 0) = none)
      ∧ (Runs (run1 optS) (1 : StreamId).toNat 0x3000 optS ∧ (run1 optS).mem.err = [] ∧ wordAt optS.rx 0x1E0 % 2 ^ 44 = 0
        ∧ optS.chunk = some ⟨0, 0, [], [], 0⟩)
      ∧ (Runs (run1 optD) (1 : StreamId).toNat 0x3000 optD ∧ (run1 optD).mem.err = [] ∧ wordAt optD.rx 0x1E0 % 2 ^ 44 = 0
        ∧ optD.chunk = none ∧ chunksLeft (run1 optD) optD = [] ∧ bit (leNat (slice optD.rx 0x1DC 4)) 2 = false) :=
  ⟨⟨runs_of rfl (by decide) rfl rfl rfl rfl (by decide), by decide +kernel, rfl, by decide +kernel⟩, by decide +kernel,
    ⟨runs_of rfl (by decide) rfl rfl rfl rfl (by decide), rfl, by decide +kernel, rfl⟩,
    ⟨runs_of rfl (by decide) rfl rfl rfl rfl (by decide), rfl, by decide +kernel, rfl, by decide +kernel⟩⟩
/-- Unit 0 computes the one chunk of the Serai's elements. -/
theorem witness_OptimizerAndQuantRun_4 :
    Runs (run1 (optE 0)) (1 : StreamId).toNat 0x3000 (optE 0) ∧ unitComputes (run1 (optE 0)) (optE 0) (0 : Fin 8).val = true :=
  ⟨runs_of rfl (by decide) rfl rfl rfl rfl (by decide), by decide +kernel⟩
def qnt : Entry := cmd1 (recOf 0x31 0 6 0 (List.replicate 0x80 0 ++ natLe 8 0 ++ [2]))
theorem witness_OptimizerAndQuantRun_3 :
    let s := granted (run1 qnt)
    Runs s (1 : StreamId).toNat 0x3106 qnt ∧ s.mem.err = [] ∧ unitsReady s (parseDesc qnt.rx 0x80) = true ∧ fmtOf (parseDesc qnt.rx 0xC0).fmt ≠ none :=
  ⟨runs_of rfl (by decide) rfl rfl rfl rfl (by decide), rfl, by decide +kernel, by decide +kernel⟩

def dgt : Entry := cmd1 (recOf 0x52 0 1 0 (List.replicate 0x50 0 ++ natLe 8 0x2000))
theorem witness_DigestRowsRun :
    let s := granted (run1 dgt)
    Runs s (1 : StreamId).toNat 0x5201 dgt ∧ s.mem.err = [] ∧ addrLost s (wordAt dgt.rx 0x90 % 2 ^ 44) = false
      ∧ unitsReady s (parseDesc dgt.rx 0x40) = true ∧ s.ras.events.length ≤ 4096 :=
  ⟨runs_of rfl (by decide) rfl rfl rfl rfl (by decide), rfl, by decide +kernel, by decide +kernel, by decide⟩

/-! ### Witnesses: collectives, evidence, snapshots -/

def agr : Entry := cmd1 (recOf 0x31 0 3 0 [])
theorem witness_CollectivesBegin_1 :
    Runs (run1 agr) (1 : StreamId).toNat 0x3103 agr ∧ (run1 agr).mem.err = [] ∧ rOpc agr.rx ≠ 0x52 ∧ collOf (run1 agr) (1 : StreamId).toNat agr.seq = none
      ∧ (groupOf (run1 agr) (recGroup agr.rx)).valid = false :=
  ⟨runs_of rfl (by decide) rfl rfl rfl rfl (by decide), rfl, by decide +kernel, by decide +kernel, by decide +kernel⟩
def grouped (e : Entry) : State := { run1 e with lnk := { groups := [(0, { valid := true, members := [0], lastEnd := some 3 })] } }
theorem witness_CollectivesBegin_2 :
    Runs (grouped agr) (1 : StreamId).toNat 0x3103 agr ∧ (grouped agr).mem.err = [] ∧ collOf (grouped agr) (1 : StreamId).toNat agr.seq = none
      ∧ (groupOf (grouped agr) (recGroup agr.rx)).valid = true ∧ (groupOf (grouped agr) (recGroup agr.rx)).lastEnd = some 3 :=
  ⟨runs_of rfl (by decide) rfl rfl rfl rfl (by decide), rfl, by decide +kernel, by decide +kernel, by decide +kernel⟩

def trc : Entry := { cmd1 (recOf 0x60 0 0 0 []) with plan := some plan1 }
theorem witness_EvidenceRowsRun_1 :
    let s : State := { run1 trc with ras := { io1 := false } }
    Runs s (1 : StreamId).toNat 0x6000 trc ∧ signOk s = false :=
  ⟨runs_of rfl (by decide) rfl rfl rfl rfl (by decide), by decide⟩
theorem witness_EvidenceRowsRun_2 :
    Runs (run1 trc) (1 : StreamId).toNat 0x6000 trc ∧ (run1 trc).mem.err = [] ∧ signOk (run1 trc) = true ∧ trc.plan = some plan1
      ∧ usable (run1 trc) ≠ 0 ∧ trc.blocks = [] ∧ stagedBlks (run1 trc) (1 : StreamId).toNat trc.seq = [] ∧ trc.drained = [] ∧ trc.work = []
      ∧ trc.staged = [] ∧ trc.aux = 0 ∧ (∀ j, isHeld (run1 trc) (1 : StreamId).toNat trc.seq j = false) ∧ (run1 trc).evd.queue.length + fieldAt trc.rx 0x208 0 32 ≤ 8192 :=
  ⟨runs_of rfl (by decide) rfl rfl rfl rfl (by decide), rfl, by decide, rfl, by decide +kernel, rfl, rfl, rfl, rfl, rfl, rfl, fun _ => rfl, by decide +kernel⟩
def sel : Entry := cmd1 (recOf 0x61 0 0 0 [])
theorem witness_EvidenceRowsRun_3 :
    Runs (run1 sel) (1 : StreamId).toNat 0x6100 sel ∧ signOk (run1 sel) = true ∧ sel.log = [] ∧ (run1 sel).evd.queue = [] ∧ (run1 sel).evd.unsealed = 0 :=
  ⟨runs_of rfl (by decide) rfl rfl rfl rfl (by decide), by decide, rfl, rfl, rfl⟩
/-- A SEAL on its first run, with one record queued and unsealed, and on its last, the batch it waited for written. -/
def evr (e : Entry) (r : List Byte) (n k : Nat) : State := { run1 e with evd := { queue := [r], unsealed := n, serial := k } }
def selW : Entry := { sel with log := [(3, [])] }
theorem witness_EvidenceRowsRun_6 :
    (let s := evr sel [] 1 1
     Runs s (1 : StreamId).toNat 0x6100 sel ∧ signOk s = true ∧ sel.log = [] ∧ (∃ r ∈ s.evd.queue, wordAt r 8 < s.evd.serial) ∧ s.evd.unsealed ≠ 0
       ∧ s.evd.unsealed ≤ 4096)
      ∧ (let s := evr selW (natLe 8 0 ++ natLe 8 3) 1 4
         Runs s (1 : StreamId).toNat 0x6100 selW ∧ signOk s = true ∧ selW.log = (3, []) :: [] ∧ ∀ r ∈ s.evd.queue, 3 ≤ wordAt r 8) :=
  ⟨⟨runs_of rfl (by decide) rfl rfl rfl rfl (by decide), by decide, rfl, by decide, by decide, by decide⟩,
    ⟨runs_of rfl (by decide) rfl rfl rfl rfl (by decide), by decide, rfl, by decide⟩⟩
/-- One record queued and unsealed. -/
theorem witness_EvidenceRowsRun_4 :
    let s : State := { served with evd := { queue := [[]], unsealed := 1 } }
    s.pwr.phase = .on ∧ consuming s = true ∧ signOk s = true ∧ s.evd.unsealed ≠ 0 := by decide
/-- A sealed batch of one record, its record next or its seal next, to a log in host memory or in the device's; the last with its vector. -/
theorem witness_EvidenceRowsRun_5 (cfg : W64) (h : cfg = 0x44 ∨ cfg = 0x64 ∨ cfg = 0xC4) (p : Nat) (hp : p = 0 ∨ p = 1) :
    let s : State := { served with evd := { queue := [[]], sealed := [(1, [])], cfg := cfg, logPos := p } }
    s.pwr.phase = .on ∧ consuming s = true ∧ s.evd.sealed = (1, []) :: [] ∧ logRoom s = true ∧ s.mem.err = [] ∧ bit s.evd.cfg.toNat 5 = (cfg = 0x64)
      ∧ bit s.evd.cfg.toNat 7 = (cfg = 0xC4) ∧ (s.evd.logPos < 1) = (p = 0) := by
  rcases h with rfl | rfl | rfl <;> rcases hp with rfl | rfl <;> decide

def snb : Entry := cmd1 (recOf 0x50 0 1 0 [])
def snbGate : Entry := cmd1 (recOf 0x50 0 1 0 [1])
def sne : Entry := cmd1 (recOf 0x51 0 1 0 [])
/-- A job record that binds stream 1. -/
def jr : JobRec :=
  { jobGroup := 5, parityGroup := 6, mb := 1, p0 := 1, sync0 := 0, nsync := 0, stepAddr := 0, streams := [1], ranges := [(hbmBase, 1)] }
def job1 (e : Entry) : State := { run1 e with cfg := { st := .service, entered := true, conf := { job := some jr } }, job := { st := 1 } }
theorem witness_SnapshotRowsRun_1 : Runs (run1 snb) (1 : StreamId).toNat 0x5000 snb ∧ bound (run1 snb) (1 : StreamId).toNat = false :=
  ⟨runs_of rfl (by decide) rfl rfl rfl rfl (by decide), by decide⟩
theorem witness_SnapshotRowsRun_2 :
    ∃ s : State, Runs s (1 : StreamId).toNat 0x5000 snbGate ∧ bound s (1 : StreamId).toNat = true ∧ bit (wordAt snbGate.bytes 0x40) 0 = true
      ∧ (strmOf s (1 : StreamId).toNat).lastDigest ≠ 0 :=
  ⟨{ job1 snbGate with cmd := { streams := [(1, { opened := true, journal := [snbGate], lastDigest := 0x0702 })] } },
    ⟨by decide, ⟨0, by decide, rfl⟩, rfl, rfl, rfl, by decide +kernel⟩, by decide, by decide +kernel, by decide⟩
theorem witness_SnapshotRowsRun_3 :
    Runs (job1 snb) (1 : StreamId).toNat 0x5000 snb ∧ bound (job1 snb) (1 : StreamId).toNat = true
      ∧ (bit (wordAt snb.bytes 0x40) 0 = false ∨ (strmOf (job1 snb) (1 : StreamId).toNat).lastDigest = 0)
      ∧ (∀ m ∈ (job1 snb).job.mans, m.1 ≠ (job1 snb).job.serial + 1) ∧ snb.st = .running
      ∧ ∀ p ∈ livePages (job1 snb) jr, firstBad (job1 snb).mem (pageBase jr p) page = none :=
  ⟨runs_of rfl (by decide) rfl rfl rfl rfl (by decide), by decide, by decide +kernel, by decide, rfl, by decide +kernel⟩
theorem witness_SnapshotRowsRun_4 :
    let s : State := { job1 sne with job := { st := 1, serial := 4, held := some { serial := 4 } } }
    Runs s (1 : StreamId).toNat 0x5100 sne ∧ bound s (1 : StreamId).toNat = true ∧ s.job.cur = none ∧ s.job.held = some { serial := 4 }
      ∧ (4 : Nat) = s.job.serial :=
  ⟨runs_of rfl (by decide) rfl rfl rfl rfl (by decide), by decide, rfl, rfl, rfl⟩


/-! ### Witnesses: doorbells, starts and completions -/

theorem witness_DoorbellSetsPi :
    ∃ s : State, HostWrites s false ∧ s.cfg.entered = true ∧ (strmOf s (1 : StreamId).toNat).opened = true
      ∧ bit (strmOf s (1 : StreamId).toNat).cfg.toNat 2 = false :=
  ⟨run1 sig, ⟨by decide, by decide, by decide, by decide⟩, by decide, by decide, by decide⟩

/-- A SIGNAL and an AGREE-like record that names the last byte of the Serai, each accepted and first of its stream. -/
def acc1 (r : List Byte) : Entry := { cmd1 r with st := .accepted }
def far : Entry := acc1 (recOf 0x31 0 4 0 (natLe 8 0x7FFFFFC0))
theorem witness_CommandsStartAndEnd_1 :
    let e := acc1 sig.bytes
    nextStart (run1 e) (1 : StreamId).toNat = some (0, e) ∧ brkHit (run1 e).cmd.brk (1 : StreamId).toNat e = false
      ∧ (namedRanges e.rx).all (rngOpen (run1 e).cfg.conf) = true ∧ lostNamed (run1 e) e.rx = none ∧ famOf (rOpc e.rx) ≠ some 1
      ∧ rOpc e.rx ≠ 0x60 ∧ (run1 e).mem.err = [] := by
  decide +kernel
/-- A COPY to the first page of HBM, whose stack is lost. -/
def lostE : Entry := acc1 (recOf 0x01 0 0 0 (natLe 8 0 ++ natLe 56 0x0A ++ natLe 8 hbmBase ++ natLe 56 0x0A))
def lostS : State := { run1 lostE with hbm := { stackTbl := [((hbmMap hbmBase).1, { lost := true })] } }
theorem witness_CommandsStartAndEnd_5 :
    nextStart lostS (1 : StreamId).toNat = some (0, lostE) ∧ brkHit lostS.cmd.brk (1 : StreamId).toNat lostE = false
      ∧ (namedRanges lostE.rx).all (rngOpen lostS.cfg.conf) = true ∧ lostNamed lostS lostE.rx = some hbmBase := by
  decide +kernel
theorem witness_CommandsStartAndEnd_2 :
    nextStart (run1 far) (1 : StreamId).toNat = some (0, far) ∧ brkHit (run1 far).cmd.brk (1 : StreamId).toNat far = false
      ∧ (namedRanges far.rx).all (rngOpen (run1 far).cfg.conf) = false := by
  decide +kernel
/-- A breakpoint that counts 0 commands of every stream. -/
theorem witness_CommandsStartAndEnd_3 :
    let s : State := { run1 far with cmd := { (run1 far).cmd with brk := { ctl := 5 } } }
    nextStart s (1 : StreamId).toNat = some (0, far) ∧ brkHit s.cmd.brk (1 : StreamId).toNat far = true := by
  decide +kernel

/-- An EWISE of one element that waits for its workspace. -/
def ewW : Entry := cmd1 (recOf 0x12 0 0 0 [])
def waits1 : State := { run1 ewW with cmd := { (run1 ewW).cmd with wsWait := [(1, 0)] } }
theorem witness_PlansAndPhasesGoOn_1 :
    ∃ p, waitOrder waits1 = ((1 : StreamId).toNat, 0) :: [] ∧ runnable waits1 (1 : StreamId).toNat = true
      ∧ cmdOf waits1 (1 : StreamId).toNat 0 = some ewW ∧ makePlan waits1 ewW = .plan p ∧ poolFits waits1 p.wsBytes = true ∧ ewW.stop = none
      ∧ ewW.ran = false ∧ waits1.mem.err = [] := by
  have h : (match makePlan waits1 ewW with | .plan p => poolFits waits1 p.wsBytes | _ => false) = true := by decide +kernel
  split at h
  · exact ⟨_, by decide +kernel, by decide +kernel, by decide +kernel, by assumption, h, rfl, rfl, rfl⟩
  · cases h
/-- A plan of two phases, the first drained. -/
def plan2 : Plan := { plan1 with phases := [⟨0, 0, 1⟩, ⟨1, 1, 1⟩] }
def ew2 : Entry := { cmd1 (recOf 0x12 0 0 0 []) with plan := some plan2, drained := [0] }
def ew2' : Entry := { ew2 with plan := some { plan2 with cur := 1 } }
theorem witness_PlansAndPhasesGoOn_2 :
    let s := run1 ew2
    let u := copyOuts s (1 : StreamId).toNat
    runnable s (1 : StreamId).toNat = true ∧ (strmOf u (1 : StreamId).toNat).journal = [ew2] ∧ ew2.refused = false ∧ ew2.st = .running
      ∧ stepPhase u (1 : StreamId).toNat 0 = some (run1 ew2')
      ∧ cmdOf (run1 ew2') (1 : StreamId).toNat 0 = some ew2' ∧ curPhase { plan2 with cur := 1 } = some ⟨1, 1, 1⟩ := by
  decide +kernel
/-- An EWISE whose operand is the first word of HBM. -/
theorem witness_PlansAndPhasesGoOn_3 :
    let b := hbmBase / 0x40000
    let e : Entry := { cmd1 (recOf 0x12 0 0 0 (natLe 8 hbmBase ++ natLe 56 0x0A)) with plan := some plan1, blocks := [(b, false)] }
    let s := granted (run1 e)
    runnable s (1 : StreamId).toNat = true ∧ stagingGrant s b = true
      ∧ ((strmOf s (1 : StreamId).toNat).journal.find? fun e => !e.refused && e.st = .running && e.stop.isNone && (wantedBlks s (1 : StreamId).toNat e).contains b)
          = some e
      ∧ (wantedKeys s (1 : StreamId).toNat e).find? (·.1 = b) = some (b, some 0)
      ∧ (stageSlot s (1 : StreamId).toNat e (b, some 0)).map Prod.snd = some 0 ∧ Memory.wf s.mem = true ∧ s.mem.err = [] := by
  decide +kernel

theorem witness_ClusterTakesARun :
    let s : State := { run1 ew with til := { srv := [⟨1, 0, 0, 1, []⟩] } }
    let u := moveReserves s (0 : Fin 16).val
    consuming s = true ∧ warmDefers s = false ∧ headBatch u = some (true, ⟨1, 0, 0, 1, []⟩) ∧ nextCluster u = some (0 : Fin 16).val
      ∧ ((takers u (0 : Fin 16).val).filter fun t => idleTile (tileOf u t)) ≠ [] := by
  decide +kernel

theorem witness_CommandsStartAndEnd_4 :
    let e : Entry := { ew with ran := true }
    let u := copyOuts (run1 e) (1 : StreamId).toNat
    runnable (run1 e) (1 : StreamId).toNat = true
      ∧ ((strmOf u (1 : StreamId).toNat).journal.find? fun e => !e.refused && e.st = .running && effectsOver e) = some e
      ∧ cmdOf u (1 : StreamId).toNat e.seq = some e := by
  decide +kernel

/-- A done entry, and its ring of 64 entries in host memory or in the device's. -/
def fin1 : Entry := { sig with st := .done, ran := true }
def ringed (cfg : W64) : State := { run1 fin1 with cmd := { (run1 fin1).cmd with rings := [(0, { cfg := cfg, base := 0x1000 })] } }
theorem witness_CompletionEntriesAreWritten_1 (cfg : W64) (h : cfg = 0x86 ∨ cfg = 0xA6 ∨ cfg = 0x2000000E6) :
    let s := ringed cfg
    let x := strmOf s (1 : StreamId).toNat
    let r := ringOf s (bits x.cfg.toNat 16 11)
    s.ser.rebuild = false ∧ nextEntry x = some (0, fin1) ∧ entryReady s (1 : StreamId).toNat fin1 = true ∧ ringRoom s r = true
      ∧ (bit r.cfg.toNat 5 && bit r.cfg.toNat 6) = (cfg = 0x2000000E6) := by
  rcases h with rfl | rfl | rfl <;> decide +kernel
/-- The same of an Escorted stream. -/
theorem witness_CompletionEntriesAreWritten_2 :
    let s := modStrm (ringed 0x86) 1 fun x => { x with cfg := x.cfg ||| 2 }
    let x := strmOf s (1 : StreamId).toNat
    nextEntry x = some (0, fin1) ∧ entryReady s (1 : StreamId).toNat fin1 = true ∧ ringRoom s (ringOf s (bits x.cfg.toNat 16 11)) = true
      ∧ escorted x = true ∧ fin1.refused = false := by
  decide +kernel

/-- The same rings under irq_mode 0, 1 and 2, also on node 2, with a record that asks for an interrupt and one that does not. -/
def finI (irq : Nat) : Entry := { cmd1 (recOf (0x40 + irq <<< 8) 0 0 0 []) with st := .done, ran := true }
def ringedI (cfg : W64) (irq : Nat) : State :=
  { run1 (finI irq) with cmd := { (run1 (finI irq)).cmd with rings := [(0, { cfg := cfg, base := 0x1000 })] } }
theorem witness_RingInterrupts_1 (cfg : W64) (h : cfg = 0x86 ∨ cfg = 0x186 ∨ cfg = 0x286 ∨ cfg = 0x2000000E6) (irq : Nat) (hi : irq = 0 ∨ irq = 1) :
    let s := ringedI cfg irq
    let r := ringOf s (bits (strmOf s (1 : StreamId).toNat).cfg.toNat 16 11)
    nextEntry (strmOf s (1 : StreamId).toNat) = some (0, finI irq) ∧ entryReady s (1 : StreamId).toNat (finI irq) = true ∧ ringRoom s r = true
      ∧ s.ser.rebuild = false ∧ s.mem.err = []
      ∧ (bit r.cfg.toNat 5 && bit r.cfg.toNat 6) = (cfg = 0x2000000E6) ∧ rIrq (finI irq).bytes = (irq = 1) := by
  rcases h with rfl | rfl | rfl | rfl <;> rcases hi with rfl | rfl <;> decide +kernel

/-! ### Witnesses: stream and ring registers -/

theorem witness_StreamAndCommandRegisters_1 : (strmOf served served.selH.strm.toNat).opened = false := by decide
theorem witness_StreamAndCommandRegisters_2 :
    ∃ s : State, HostWrites s false ∧ (strmOf s s.selH.strm.toNat).opened = true :=
  ⟨{ run1 sig with selH := { strm := 1 } }, ⟨by decide, by decide, by decide, by decide⟩, by decide⟩
theorem witness_StreamAndCommandRegisters_3 :
    let s : State := { served with cmd := { streams := [(1, { opened := true, closing := true })] } }
    (strmOf s (1 : StreamId).toNat).opened = true ∧ (strmOf s (1 : StreamId).toNat).closing = true
      ∧ (strmOf s (1 : StreamId).toNat).journal.all (·.refused) = true ∧ s.ser.rebuild = false := by
  decide
theorem witness_EscortTimeoutRefusesThePendingRecord :
    let e : Entry := { sig with st := .pending }
    ((strmOf (run1 e) (1 : StreamId).toNat).journal.find? fun e => e.st = .pending && !e.wdWait) = some e ∧ (run1 e).ser.rebuild = false := by
  decide +kernel
theorem witness_StreamAndCommandRegisters_4 : HostWrites served false := host_served

/-- A ring of 64 entries at 0x1000 of host memory, enabled. -/
theorem witness_RingAndVisitOrderRegisters_1 :
    let v : W64 := 0x86
    let r := ringOf served served.selH.cring.toNat
    let n := bits v.toNat 0 5
    bit v.toNat 10 = false ∧ bits v.toNat 8 2 ≠ 3 ∧ bits v.toNat 11 5 = 0 ∧ bits v.toNat 27 5 = 0 ∧ bits v.toNat 48 16 = 0 ∧ 6 ≤ n ∧ n ≤ 16
      ∧ bit r.cfg.toNat 7 = false ∧ (bit v.toNat 7 = true → ringPlaced served.cfg.conf r.base v = true) := by
  decide +kernel
/-- A ring that is enabled, its enable taken away or written again. -/
theorem witness_RingAndVisitOrderRegisters_4 (v : W64) (h : v = 0x86 ∨ v = 0x06) :
    let s : State := { served with cmd := { rings := [(0, { cfg := 0x86 })] } }
    let r := ringOf s s.selH.cring.toNat
    HostWrites s false ∧ bit v.toNat 10 = false ∧ bits v.toNat 8 2 ≠ 3 ∧ bits v.toNat 11 5 = 0 ∧ bits v.toNat 27 5 = 0 ∧ bits v.toNat 48 16 = 0
      ∧ 6 ≤ bits v.toNat 0 5 ∧ bits v.toNat 0 5 ≤ 16 ∧ bit r.cfg.toNat 7 = true
      ∧ setBits (setBits v 10 1 (bits r.cfg.toNat 10 1)) 7 1 1 = setBits r.cfg 7 1 1 := by
  rcases h with rfl | rfl <;> exact ⟨⟨by decide, by decide, by decide, by decide⟩, by decide +kernel⟩
/-- A head within the tail's reach, and one beyond it. -/
theorem witness_RingAndVisitOrderRegisters_2 :
    let s : State := { served with cmd := { rings := [(0, { tail := 3 })] } }
    ¬((ringOf s 0).tail - (ringOf s 0).head).toNat < ((2 : BitVec 32) - (ringOf s 0).head).toNat
      ∧ ((3 : BitVec 32) - (ringOf s 0).head).toNat ≤ ((ringOf s 0).tail - (ringOf s 0).head).toNat
      ∧ ((ringOf s 0).tail - (ringOf s 0).head).toNat < ((4 : BitVec 32) - (ringOf s 0).head).toNat := by
  decide
/-- An entry other than 0 with a value in range, and entry 0. -/
theorem witness_RingAndVisitOrderRegisters_3 :
    (let s : State := { served with selH := { vo := 1 } }; s.selH.vo.toNat ≠ 0 ∧ voOk 0 = true) ∧ served.selH.vo.toNat = 0 := by
  decide

/-! ### Witnesses: the tile engine -/

/-- RUN_PROGRAM on an image of one bundle, its one job in tile 0. -/
def rp : Entry := { cmd1 (recOf 0x15 0 0 0 []) with plan := some plan1 }
def img0 (b : Nat) : List Byte := natLe 64 1 ++ natLe 32 b ++ natLe 32 0
def job0 : TJob := { st := 1, seq := 0, idx := 0 }
def tile0 : Tile := { job := some job0, granted := true, audited := true, imA := { valid := true } }
def tiled (b : Nat) (x : Tile) : State :=
  { run1 rp with til := { progs := [{ pid := 0, gen := 0, img := img0 b, done := true }], tiles := [(0, x)] } }
def ctx0 (b : Nat) : JCtx :=
  progCtx {} false (recEnv { cells := [], err := [] } rp.rx (BitVec.ofInt 12 plan1.anchor)) (img0 b) plan1 rp.vo.toNat 0

theorem tile_ctx (b : Nat) (x : Tile) : tileCtx (tiled b x) job0 = some (rp, plan1, ctx0 b) := rfl
theorem tile_of (b : Nat) (x : Tile) : tileOf (tiled b x) 0 = x := rfl

/-- The tile's slot is ready where nothing holds the tile and the earlier slots have issued. -/
theorem slot_ready (b : Nat) (x : Tile) (sl : TileSlot) (op : Nat) (hj : x.job = some job0) (hi : canIssue (tiled b x) 0 = true)
    (hb : bankReady (tiled b x) 0 job0 = true) (ha : x.audited = true) (h : slotOp sl (slotOf ((ctx0 b).bun x.bundle) sl) = op ∧ x.issued.contains sl = false
      ∧ ((slotsBefore sl).any fun k => slotOp k (slotOf ((ctx0 b).bun x.bundle) k) ≠ 0 && !x.issued.contains k) = false) :
    SlotReady (tiled b x) (tiled b x) (0 : TileNo).toNat sl op job0 rp plan1 (ctx0 b) x := by
  refine ⟨?_, h⟩
  change fetchBundle (tiled b x) 0 = _
  simp only [fetchBundle, tile_of, hj, hi, tile_ctx, hb, ha, Bool.not_true, Bool.false_eq_true, if_false, if_true]

theorem witness_SlotsTakeEffect :
    (((.nop · .x), .x, 0) ∈ slotRows ∧ SlotReady (tiled 0 tile0) (tiled 0 tile0) (0 : TileNo).toNat .x 0 job0 rp plan1 (ctx0 0) tile0)
      ∧ ((Instr.mma, .m, 1) ∈ slotRows
          ∧ SlotReady (tiled (1 <<< 80) tile0) (tiled (1 <<< 80) tile0) (0 : TileNo).toNat .m 1 job0 rp plan1 (ctx0 (1 <<< 80)) tile0) :=
  ⟨⟨by simp [slotRows], slot_ready _ _ _ _ rfl (by decide +kernel) rfl rfl (by decide +kernel)⟩,
    ⟨by simp [slotRows], slot_ready _ _ _ _ rfl (by decide +kernel) rfl rfl (by decide +kernel)⟩⟩
theorem witness_ControlSlotsAdvance_1 : SlotReady (tiled 0 tile0) (tiled 0 tile0) (0 : TileNo).toNat .c 0 job0 rp plan1 (ctx0 0) tile0 ∧ tile0.loops = [] :=
  ⟨slot_ready _ _ _ _ rfl (by decide +kernel) rfl rfl (by decide +kernel), rfl⟩
theorem witness_ControlSlotsAdvance_2 : SlotReady (tiled 2 tile0) (tiled 2 tile0) (0 : TileNo).toNat .c 2 job0 rp plan1 (ctx0 2) tile0 ∧ tile0.loops = [] :=
  ⟨slot_ready _ _ _ _ rfl (by decide +kernel) rfl rfl (by decide +kernel), rfl⟩
/-- LOOP of three iterations up to bundle 1. -/
def lp3 : Nat := 4 + 1 <<< 6 + 3 <<< 16
theorem witness_ControlSlotsAdvance_3 :
    SlotReady (tiled lp3 tile0) (tiled lp3 tile0) (0 : TileNo).toNat .c 4 job0 rp plan1 (ctx0 lp3) tile0 ∧ tile0.loops = []
      ∧ (let f := slotOf ((ctx0 lp3).bun tile0.bundle) .c; tile0.bundle < bits f 6 10 ∧ bits f 16 16 ≠ 0) :=
  ⟨slot_ready _ _ _ _ rfl (by decide +kernel) rfl rfl (by decide +kernel), rfl, by decide +kernel⟩
theorem witness_EndsTransfersAndBanks_1 :
    SlotReady (tiled 1 tile0) (tiled 1 tile0) (0 : TileNo).toNat .c 1 job0 rp plan1 (ctx0 1) tile0 ∧ tile0.bad = none
      ∧ rp.drained.contains job0.idx = false ∧ (tiled 1 tile0).ser.rebuild = false :=
  ⟨slot_ready _ _ _ _ rfl (by decide +kernel) rfl rfl (by decide +kernel), rfl, by decide, rfl⟩
/-- WAITX for token 0, whose transfer is in flight. -/
def tileX : Tile := { tile0 with toks := [(0, { kind := 0, seg := 0, nseg := 1, bits := [], done := false })] }
theorem witness_EndsTransfersAndBanks_2 :
    SlotReady (tiled 0x13 tileX) (tiled 0x13 tileX) (0 : TileNo).toNat .c 3 job0 rp plan1 (ctx0 0x13) tileX
      ∧ (tileX.toks.any fun y => bit (bits (slotOf ((ctx0 0x13).bun tileX.bundle) .c) 4 16) y.1 && !y.2.done) = true :=
  ⟨slot_ready _ _ _ _ rfl (by decide +kernel) rfl rfl (by decide +kernel), by decide +kernel⟩
theorem witness_EndsTransfersAndBanks_3 :
    let s := tiled 0x13 tileX
    (tileOf s (0 : TileNo).toNat).job = some job0 ∧ inHold s = false ∧ (tileOf s (0 : TileNo).toNat).waitMask = none
      ∧ ((tileOf s (0 : TileNo).toNat).toks.any (·.1 = (0 : Fin 16).val)) = true ∧ s.mem.err = []
      ∧ (tileOf s (0 : TileNo).toNat).bad = none := by
  decide +kernel
theorem witness_EndsTransfersAndBanks_4 :
    (tileOf (tiled 0 { tile0 with frozen := 1 }) (0 : TileNo).toNat).frozen = 1
      ∧ (tileOf (tiled 0 { tile0 with imB := { loading := true } }) (0 : TileNo).toNat).imB.loading = true := by
  decide +kernel
theorem witness_EndsTransfersAndBanks_5 :
    let x : Tile := { tile0 with audited := false, pendSw := true, imA := {}, imB := { valid := true } }
    let k := if x.actB then x.imA else x.imB
    tileOf (tiled 0 x) (0 : TileNo).toNat = x ∧ x.pendSw = true ∧ x.bundle = 0 ∧ x.audited = false ∧ x.tcy = 0 ∧ k.valid = true
      ∧ x.job = some job0 ∧ ∀ y, bindingOf (tiled 0 x) job0 = some y → holds k y = true := by
  refine ⟨rfl, rfl, rfl, rfl, rfl, rfl, rfl, ?_⟩
  rintro y ⟨⟩
  decide
/-- A finished load of a tile without a job. -/
theorem witness_EndsTransfersAndBanks_6 :
    let x : Tile := { imB := { loading := true } }
    (tileOf (tiled 0 x) (0 : TileNo).toNat).imB.loading = true ∧ (tileOf (tiled 0 x) (0 : TileNo).toNat).job = none := by
  decide +kernel
/-- DRAIN of the tile's accumulator 0 with a fault in word 0: one that the residue check finds, and one that it does not find. -/
def drn : Nat := 1 <<< 208
def tileA : Tile := { tile0 with acc := [(0, [LWord.zero 0])], res := [(0, [0])] }
def fault (v : BitVec 256) : TileFault := { det := 1, dev := [(0, v)] }
theorem witness_DrainsAreChecked_1 :
    SlotReady (tiled drn tileA) (tiled drn tileA) (0 : TileNo).toNat .e 1 job0 rp plan1 (ctx0 drn) tileA
      ∧ (let w := slotOf ((ctx0 drn).bun tileA.bundle) .e
         drainMism (faultAcc tileA w (resDev (some (fault 1)))) w = true ∧ drainMism (faultAcc tileA w (resDev (some (fault 127)))) w = false) :=
  ⟨slot_ready _ _ _ _ rfl (by decide +kernel) rfl rfl (by decide +kernel), by decide +kernel⟩
/-- The job of an EWISE or of a MATMUL in tile 0, its library program in the active bank. -/
def lib0 (op : Nat) : Tile := { tile0 with imA := { pid := BitVec.ofNat 16 op, valid := true } }
def ewTile : State := { run1 ew with til := { tiles := [(0, lib0 0x12)] } }
def mm : Entry := { cmd1 (recOf 0x10 0 0 0 []) with plan := some plan1 }
def mmTile : State := { run1 mm with til := { tiles := [(0, lib0 0x10)] } }
theorem witness_DrainsAreChecked_2 :
    (tileOf mmTile (0 : TileNo).toNat).job = some job0 ∧ jobCmd mmTile job0 = some (mm, plan1) ∧ isProgJob mm plan1 job0.idx = false
      ∧ canIssue mmTile (0 : TileNo).toNat = true ∧ bankReady mmTile (0 : TileNo).toNat job0 = true ∧ mmTile.ser.rebuild = false
      ∧ mm.drained.contains job0.idx = false ∧ rOpc mm.bytes ≠ 0x60 ∧ mmTile.mem.err = []
      ∧ (libJob mmTile 1 mm plan1 job0.idx (resDev (some (fault 1)))).mism = true
      ∧ (libJob mmTile 1 mm plan1 job0.idx (resDev (some (fault 127)))).mism = false := by
  decide +kernel
/-- The same of a TRACE. -/
def trTile : State := { run1 trc with til := { tiles := [(0, lib0 0x60)] } }
theorem witness_DrainsAreChecked_3 :
    (tileOf trTile (0 : TileNo).toNat).job = some job0 ∧ jobCmd trTile job0 = some (trc, plan1) ∧ isProgJob trc plan1 job0.idx = false
      ∧ canIssue trTile (0 : TileNo).toNat = true ∧ bankReady trTile (0 : TileNo).toNat job0 = true ∧ trTile.ser.rebuild = false
      ∧ trc.drained.contains job0.idx = false ∧ rOpc trc.bytes = 0x60 := by
  decide +kernel
/-- A TRACE of one entry of the list at 0: of the record's MATMUL, element (0, 0). -/
def trc1 : Entry :=
  { cmd1 (recOf 0x60 0 0 0 []) with plan := some plan1, ext := List.replicate 0x108 0 ++ natLe 4 1 ++ List.replicate 52 0 }
def trTile1 : State := { run1 trc1 with til := { tiles := [(0, lib0 0x60)] } }
theorem witness_DrainsAreChecked_4 :
    (tileOf trTile1 (0 : TileNo).toNat).job = some job0 ∧ jobCmd trTile1 job0 = some (trc1, plan1) ∧ bankReady trTile1 (0 : TileNo).toNat job0 = true
      ∧ traceMism trTile1 1 trc1 plan1 job0.idx (resDev (some (fault 1))) = true
      ∧ traceMism trTile1 1 trc1 plan1 job0.idx (resDev (some (fault 127))) = false := by
  decide +kernel


/-! ### Witnesses: failures, faults and ageing -/

/-- The hypotheses that every stopped command shares. -/
theorem witness_StoppedCommandsFail_uncorr :
    let e : Entry := { ew with stop := some (.uncorr 0x3000) }
    runnable (run1 e) (1 : StreamId).toNat = true ∧ inFlight (run1 e) (1 : StreamId).toNat e.seq = false ∧ cmdOf (run1 e) (1 : StreamId).toNat e.seq = some e
      ∧ (stopped (run1 e) (1 : StreamId).toNat fun | .uncorr _ => true | .lost _ => true | _ => false) = some e := by
  decide +kernel
theorem witness_StoppedCommandsFail_lost :
    let e : Entry := { ew with stop := some (.lost 0x3000) }
    runnable (run1 e) (1 : StreamId).toNat = true ∧ inFlight (run1 e) (1 : StreamId).toNat e.seq = false ∧ cmdOf (run1 e) (1 : StreamId).toNat e.seq = some e
      ∧ (stopped (run1 e) (1 : StreamId).toNat fun | .uncorr _ => true | .lost _ => true | _ => false) = some e := by
  decide +kernel
theorem witness_StoppedCommandsFail_sched :
    let e : Entry := { ew with stop := some (.sched 0 0x8000000000000401 0 0 0) }
    runnable (run1 e) (1 : StreamId).toNat = true ∧ inFlight (run1 e) (1 : StreamId).toNat e.seq = false ∧ cmdOf (run1 e) (1 : StreamId).toNat e.seq = some e
      ∧ (stopped (run1 e) (1 : StreamId).toNat fun | .sched .. => true | _ => false) = some e := by
  decide +kernel
theorem witness_StoppedCommandsFail_unresolved :
    let e : Entry := { ew with stop := some (.unresolved 3) }
    runnable (run1 e) (1 : StreamId).toNat = true ∧ inFlight (run1 e) (1 : StreamId).toNat e.seq = false ∧ cmdOf (run1 e) (1 : StreamId).toNat e.seq = some e
      ∧ (stopped (run1 e) (1 : StreamId).toNat fun | .trap _ => true | .unresolved _ => true | _ => false) = some e := by
  decide +kernel
/-- A MATMUL of one FP32 product whose factor at 0x100 is NaN, with the trap of NaNs enabled (R129). -/
def nanE : Entry :=
  { cmd1 (slice (natLe 8 (0x10 + 1 <<< 32) ++ natLe 8 0 ++ natLe 8 (1 <<< 24) ++ natLe 40 0 ++ natLe 8 0x100 ++ natLe 56 0x0A
      ++ natLe 8 0x200 ++ natLe 56 0x0A ++ natLe 8 0x300 ++ natLe 56 0x0A) 0 256) with plan := some plan1, stop := some (.trap 2) }
def nanS : State := { run1 nanE with mem := { cells := [(0x102, 0xC0), (0x103, 0x7F)], err := [] } }
theorem witness_StoppedCommandsFail_trap :
    runnable nanS (1 : StreamId).toNat = true ∧ inFlight nanS (1 : StreamId).toNat nanE.seq = false ∧ cmdOf nanS (1 : StreamId).toNat nanE.seq = some nanE
      ∧ (stopped nanS (1 : StreamId).toNat fun | .trap _ => true | .unresolved _ => true | _ => false) = some nanE
      ∧ (trapHits nanS (1 : StreamId).toNat nanE).head?.map (·.cause) = some 2 := by
  decide +kernel

/-- The same where the descriptors' products trap nowhere. -/
theorem witness_StoppedCommandsFail_trap' :
    let e : Entry := { ew with stop := some (.trap 2) }
    runnable (run1 e) (1 : StreamId).toNat = true ∧ inFlight (run1 e) (1 : StreamId).toNat e.seq = false ∧ cmdOf (run1 e) (1 : StreamId).toNat e.seq = some e
      ∧ (stopped (run1 e) (1 : StreamId).toNat fun | .trap _ => true | .unresolved _ => true | _ => false) = some e
      ∧ (trapHits (run1 e) (1 : StreamId).toNat e).head?.isNone = true := by
  decide +kernel

/-- Tile 3 holds the job of ewTile; its cluster's spare is tile 10. -/
def hld : Held := { tile := 3, nb := none, job := job0, det := 0x01, dev := [(0, 1)] }
def holds1 (h : Held) : State := { ewTile with ras := { held := [h], tiles := [(10, { st := 1 })], planeB := { st := 0 } } }
theorem witness_HeldJobsAreJudged_1 :
    serviceOn (holds1 hld) = true ∧ heldOf (holds1 hld) 3 = some hld ∧ hld.nb = none ∧ freeSpare (holds1 hld) hld = some 10
      ∧ tileUp (holds1 hld) (3 : TileNo).toNat = true := by
  decide +kernel
theorem witness_HeldJobsAreJudged_2 :
    let h : Held := { hld with nb := some 10 }
    (serviceOn (holds1 h) = true ∧ (holds1 h).ser.rebuild = false ∧ heldOf (holds1 h) 3 = some h ∧ h.nb = some 10 ∧ h.open_ = false)
      ∧ (sameDev [] [] = true ∧ sameDev h.dev [] = false) ∧ (sameDev h.dev [(0, 1)] = true ∧ sameDev h.dev [] = false ∧ sameDev [(0, 1)] [] = false)
      ∧ (sameDev h.dev [(0, 2)] = false ∧ sameDev h.dev [(0, 4)] = false ∧ sameDev [(0, 2)] [(0, 4)] = false) := by
  decide +kernel
/-- No spare stands by: tile 4 of the cluster takes the replay. All three images agree. -/
theorem witness_HeldJobsAreJudged_4 :
    (let s : State := { ewTile with ras := { held := [hld], clus := [(0, { spare := 15 })], planeB := { st := 0 } } }
     serviceOn s = true ∧ heldOf s 3 = some hld ∧ hld.nb = none ∧ freeSpare s hld = none ∧ replayTile s hld 4 = true ∧ (tileOf s (4 : TileNo).toNat).job = none
        ∧ (4 : TileNo).toNat / 16 = (3 : TileNo).toNat / 16)
      ∧ sameDev hld.dev [(0, 1)] = true ∧ sameDev [(0, 1)] [(0, 1)] = true := by
  decide +kernel
/-- No spare stands by, and tile 4 has a job: the replay waits. No other tile of the cluster is left: a tile of the next one takes it. -/
theorem witness_HeldJobsAreJudged_6 :
    (let s : State := { ewTile with ras := { held := [hld], clus := [(0, { spare := 15 })] }, til := { tiles := [(4, lib0 0x12)] } }
     serviceOn s = true ∧ heldOf s 3 = some hld ∧ hld.nb = none ∧ freeSpare s hld = none ∧ (tileOf s (4 : TileNo).toNat).job ≠ none)
      ∧ (let h : Held := { hld with tried := (List.range 10).map (BitVec.ofNat 8) }
         let s : State := { ewTile with ras := { held := [h], clus := [(0, { spare := 15 })] } }
         freeSpare s h = none ∧ replayTile s h 0x14 = true ∧ (tileOf s (0x14 : TileNo).toNat).job = none ∧ replayNear s h = false) := by
  decide +kernel
/-- The third replay equals neither: all of its images differ. -/
theorem witness_HeldJobsAreJudged_5 :
    let h : Held := { hld with nb := some 10, open_ := true, devS := [(0, 2)], devN := [] }
    sameDev [(0, 8)] h.devN = false ∧ sameDev [(0, 8)] h.devS = false ∧ (holds1 h).mem.err = []
      ∧ (cmdOf (holds1 h) h.job.st h.job.seq).map (·.stop) = some none := by
  decide +kernel
theorem witness_HeldJobsAreJudged_3 :
    let h : Held := { hld with nb := some 10, open_ := true, devS := [(0, 2)], devN := [] }
    serviceOn (holds1 h) = true ∧ (holds1 h).ser.rebuild = false ∧ heldOf (holds1 h) 3 = some h ∧ h.open_ = true
      ∧ tileUp (holds1 h) (0x40 : TileNo).toNat = true ∧ (0x40 : TileNo) ∉ h.tried
      ∧ (0x40 : TileNo).toNat / 64 ≠ (3 : TileNo).toNat / 64 ∧ (sameDev [] h.devN = true ∧ sameDev [] h.devS = false)
      ∧ (sameDev [(0, 2)] h.devN = false ∧ sameDev [(0, 2)] h.devS = true) := by
  decide +kernel

theorem witness_SelfTestsAndTileControl_1 :
    let s : State := { served with ras := { tiles := [(3, { st := 3 })] } }
    let k := cluOf s (3 / 16)
    firmwareOn s = true ∧ (rasOf s (3 : TileNo).toNat).st = 3 ∧ bit k.retired.toNat (3 % 16) = false ∧ k.spare.toNat ≠ 3 % 16 ∧ k.wd = false := by
  decide
theorem witness_SelfTestsAndTileControl_2 :
    let s : State := { served with ras := { clus := [(0, { filling := true })] } }
    firmwareOn s = true ∧ (cluOf s (0 : Fin 16).val).filling = true ∧ (cluOf s (0 : Fin 16).val).spare ≠ 15 := by
  decide
/-- A tile fails its self-test while a spare that is not filling stands by. -/
theorem witness_SelfTestsAndTileControl_4 :
    let s : State := { served with ras := { tiles := [(3, { st := 3 })] } }
    hasSpare s 3 = true ∧ (cluOf s 0).spare.toNat ≠ 3 := by
  decide
/-- In SERVICE, and in MAINTENANCE with an intermittent tile 3 in a cluster without a spare. -/
def maint : State :=
  { served with cfg := { st := .maintenance, entered := true }, selH := { rtile := 3 },
                ras := { clus := [(0, { spare := 15 })], tiles := [(3, { st := 5 })], planeB := { st := 0 } } }
theorem witness_SelfTestsAndTileControl_3 :
    served.cfg.st ≠ .maintenance ∧ HostWrites maint false ∧ maint.cfg.st = .maintenance ∧ (rasOf maint maint.selH.rtile.toNat).st = 5
      ∧ (cluOf maint (maint.selH.rtile.toNat / 16)).spare = 15 :=
  ⟨by decide, ⟨by decide, by decide, by decide, by decide⟩, by decide, by decide, by decide⟩

theorem witness_ShadowCopiesAreCompared :
    let e : Entry := { ew with shadowed := [0] }
    runnable (run1 e) (1 : StreamId).toNat = true
      ∧ ((strmOf (run1 e) (1 : StreamId).toNat).journal.find? fun e => !e.refused && e.st = .running && e.shadowed.contains 0) = some e
      ∧ cmdOf (run1 e) (1 : StreamId).toNat e.seq = some e ∧ e.plan = some plan1 ∧ e.stop = none ∧ (run1 e).mem.err = [] := by
  decide +kernel
/-- Copies that agree, one that differs from the two others, and three that all differ. -/
theorem witness_ShadowCopiesAreCompared_2 :
    let b : List Byte := [0, 0, 0, 0]
    copyDigest (flipBytes b []) = copyDigest (flipBytes b []) ∧ copyDigest (flipBytes b [(0, 1)]) ≠ copyDigest (flipBytes b [])
      ∧ copyDigest (flipBytes b [(0, 2)]) ≠ copyDigest (flipBytes b [(0, 1)]) ∧ copyDigest (flipBytes b [(0, 2)]) ≠ copyDigest (flipBytes b []) := by
  decide +kernel
theorem witness_RegulatorFaults :
    (firmwareOn served = true ∧ cluUp served (0 : Fin 16).val = true ∧ (cluOf served (0 : Fin 16).val).ivrOk = true)
      ∧ (let s : State := { served with ras := { clus := [(0, { ivrOk := false })] } }
         firmwareOn s = true ∧ (cluOf s (0 : Fin 16).val).wdReg = false ∧ (cluOf s (0 : Fin 16).val).ivrOk = false
           ∧ (recent s (cluOf s (0 : Fin 16).val).trans).length < 2) := by
  decide
theorem witness_PartsAreLost_part (p : Part) (h : p ∈ [Part.diePair 3, .stack 7, .io0, .io1, .engine 7]) : firmwareOn served = true ∧ partUp served p = true := by
  simp only [List.mem_cons, List.not_mem_nil, or_false] at h
  rcases h with rfl | rfl | rfl | rfl | rfl <;> decide
theorem witness_PartsAreLost :
    firmwareOn served = true ∧ (2 : Fin 6).val < (3 : Fin 6).val ∧ (3 : Fin 6).val < 4 ∧ bit served.ras.fab.toNat (fabIx 2 3) = true
      ∧ (stackOf served (7 : Fin 8).val).lost = false := by
  decide
/-- The COPY of lostE runs as the stack it writes to is lost, first and second part. -/
def lossS (n : Nat) : State := { run1 { lostE with st := .running } with ras := { losses := n } }
theorem witness_PartsAreLost_running :
    (firmwareOn (lossS 0) = true ∧ (stackOf (lossS 0) (Fin.ofNat 8 (hbmMap hbmBase).1).val).lost = false)
      ∧ (∃ e, cmdOf (lossS 0) 1 0 = some e ∧ e.st = .running ∧ e.ran = false ∧ e.stop = none ∧ (lostNamed lostS e.rx).isSome = true)
      ∧ 1 ≤ (lossS 1).ras.losses :=
  ⟨by decide +kernel, ⟨{ lostE with st := .running }, by decide +kernel⟩, by decide⟩
theorem witness_PartsAreLost_io :
    firmwareOn served = true ∧ (0 : Fin 6).val < (4 : Fin 6).val ∧ 4 ≤ (4 : Fin 6).val ∧ served.ras.fabIo.contains ((0 : Fin 6).val, (4 : Fin 6).val) = false := by
  decide
theorem witness_ControlPlanesStop :
    (serviceOn served = true ∧ (planeOf served (!served.ras.actB)).st = 0 ∧ served.cfg.handover = false ∧ served.fwu.window = false
        ∧ served.cmd.streams.all (fun x => x.2.journal.all fun e => e.log = []) = true)
      ∧ (let s : State := { served with ras := { planeB := { st := 1 } } }
         serviceOn s = true ∧ (planeOf s (!s.ras.actB)).st ≠ 0 ∧ consuming s = true ∧ wornPlane (stopPlane s s.ras.actB) s.ras.actB = false)
      ∧ (let s : State := { served with ras := { planeA := { st := 0, stops := [0, 0] }, planeB := { st := 3, stops := [0, 0, 0] } } }
         serviceOn s = true ∧ (planeOf s (!s.ras.actB)).st ≠ 0 ∧ wornPlane (stopPlane s s.ras.actB) s.ras.actB = true
           ∧ wornPlane (stopPlane s s.ras.actB) (!s.ras.actB) = true)
      ∧ (let s : State := { served with ras := { planeA := { st := 0, stops := [0, 0] }, planeB := { st := 1 } } }
         serviceOn s = true ∧ (planeOf s (!s.ras.actB)).st ≠ 0 ∧ wornPlane (stopPlane s s.ras.actB) s.ras.actB = true
           ∧ wornPlane (stopPlane s s.ras.actB) (!s.ras.actB) = false)
      ∧ (let s : State := { served with ras := { planeB := { st := 1 } } }
         firmwareOn s = true ∧ (planeOf s (!s.ras.actB)).st = 1 ∧ (recent s (planeOf s (!s.ras.actB)).stops).length < 2) := by
  decide
/-- A day after the last plan, with a tile whose slack is ample. -/
theorem witness_MarginsFollowSamples :
    let s : State := { served with ras := { sec := 86400, clus := [(0, { kv := 2, kf := 3 })], tiles := [(0, { samples := [(86400, 40)] })] } }
    let k := cluOf s (0 : Fin 16).val
    let ts := (tilesOf (0 : Fin 16).val).filterMap fun t => if tileUp s t then (slackOf s t).map fun x => (t, x) else none
    serviceOn s = true ∧ cluUp s (0 : Fin 16).val = true ∧ replanDue s (0 : Fin 16).val = true ∧ (ts.map Prod.snd).min? = some 40 ∧ s.cfg.conf.sReq ≤ 40
      ∧ k.kv ≠ 0 ∧ k.kf ≠ 0 ∧ -8 ≤ k.offset ∧ k.offset ≤ 24 ∧ (ts.all fun x => s.cfg.conf.sReq + k.kv ≤ x.2) = true
      ∧ s.flash.margin.length < 0x800000 / 64 := by
  decide +kernel
theorem witness_ScrubAndRepair_1 :
    serviceOn served = true ∧ tget served.mem.err (scrubWord served.mem false served.ser.scrubPos) 0 = 0
      ∧ tget served.mem.err (scrubWord served.mem true served.hbm.scrubPos) 0 = 0 ∧ tget served.mem.err served.ser.scrubPos 0 = 0
      ∧ served.ser.scrubPos < 0x80000000 / 32 ∧ served.mem.unplace served.ser.scrubPos = none ∧ addrLost served (served.ser.scrubPos * 32) = false
      ∧ tget served.mem.err (scrubWord served.mem false (served.ser.scrubPos ^^^ 1)) 0 = 0 := by
  decide +kernel
/-- The last place of each tier. -/
theorem witness_ScrubAndRepair_1' :
    let s : State := { served with ser := { scrubPos := 0x80000000 / 32 - 1 }, hbm := { scrubPos := 8 * stackBytes / 32 - 1 } }
    serviceOn s = true ∧ tget s.mem.err (scrubWord s.mem false s.ser.scrubPos) 0 = 0 ∧ tget s.mem.err (scrubWord s.mem true s.hbm.scrubPos) 0 = 0
      ∧ s.ser.scrubPos + 1 = 0x80000000 / 32 ∧ s.hbm.scrubPos + 1 = 8 * stackBytes / 32 := by
  decide +kernel
/-- Two corrected errors in one row within a day, and a repair in progress. -/
theorem witness_ScrubAndRepair_2 :
    let s : State := { served with hbm := { stackTbl := [(0, { rowErr := [(0x1000005, 0, 0), (0x1000005, 60, 0)] })] } }
    let x := stackOf s (0 : Fin 8).val
    serviceOn s = true ∧ x.lost = false ∧ (x.log.any fun e => e.pc = (1 : BitVec 5).toNat && e.kind = 3) = false
      ∧ (dueRows x (1 : BitVec 5).toNat).head? = some (rowKeyOf (1 : BitVec 5).toNat 5) ∧ freeSlot s (0 : Fin 8).val = some 0 ∧ s.mem.err = [] := by
  decide +kernel
theorem witness_ScrubAndRepair_3 :
    let r : Retire := { pc := 1, blk := 5, bank := 0, row := 5, kind := 3, cause := false }
    let s : State := { served with hbm := { stackTbl := [(0, { log := [r], used := 1 })] } }
    serviceOn s = true ∧ (stackOf s (0 : Fin 8).val).lost = false ∧ ((stackOf s (0 : Fin 8).val).log.find? fun e => e.kind = 3 && e.pc = (1 : BitVec 5).toNat) = some r := by
  decide +kernel


/-! ### Witnesses: Scezer Link -/

/-- The served device with port 0 as given and its node 0 in a known peer's domain. -/
def ported (q : Port) : State := { served with lnk := { ports := [(0, q)] } }
def up0 : Port := { st := 2, cv := [8, 8, 8, 8] }
/-- A flit of a type, with a good CRC. -/
def goodFlit (ty seq : Nat) : RxFlit := { bytes := mkFlit (flitHdr ty 1 true true seq 0 0 0) [], errs := [] }

theorem witness_FlitsAreTaken_1 :
    linked (ported up0) (0 : Fin 8).val = true ∧ GoodFlit (goodFlit 1 0)
      ∧ flitField (goodFlit 1 0).bytes 8 12 = (portOf (ported up0) (0 : Fin 8).val).rxSeq :=
  ⟨by decide, ⟨rfl, crcOk_mkFlit _ _⟩, by decide +kernel⟩
theorem witness_FlitsAreTaken_2 : linked (ported up0) (0 : Fin 8).val = true ∧ GoodFlit (goodFlit 2 0) ∧ (portOf (ported up0) (0 : Fin 8).val).naks < 7
    ∧ (portOf (ported up0) (0 : Fin 8).val).pmap = none ∧ (1 : BitVec 4) ≠ (portOf (ported up0) (0 : Fin 8).val).gen :=
  ⟨by decide, ⟨rfl, crcOk_mkFlit _ _⟩, by decide, by decide, by decide⟩
theorem witness_FlitsAreTaken_3 :
    let s := ported { st := 1 }
    let q := portOf s (0 : Fin 8).val
    s.pwr.phase = .on ∧ q.st = 1 ∧ q.cv = [0, 0, 0, 0] ∧ GoodFlit (goodFlit 5 0) ∧ (0 : BitVec 4).toNat = (0 : Fin 8).val
      ∧ (0 : BitVec 16) = s.cfg.conf.domain ∧ upMap q.bad = some (List.range 8) :=
  ⟨by decide, by decide, by decide, ⟨rfl, crcOk_mkFlit _ _⟩, by decide, by decide, by decide⟩
set_option maxRecDepth 20000 in
/-- A codeword with 16 symbols in error, and one with none whose flit's CRC fails. -/
theorem witness_FlitsAreTaken_4 :
    linked (ported up0) (0 : Fin 8).val = true ∧ cwBad { flit0 with errs := (List.range 16).map (Fin.ofNat 544) } = true
      ∧ cwBad { flit0 with errs := (List.range 15).map (Fin.ofNat 544) } = false ∧ cwBad flit0 = false
      ∧ crcOk (List.replicate 639 0 ++ [(1 : Byte)]) = false := by
  decide +kernel
/-- A nak that names a held flit, and acknowledges the one before it. -/
theorem witness_FlitsAreTaken_5 :
    let s := ported { up0 with replay := [(0, 1, [])] }
    let f : RxFlit := { bytes := mkFlit (flitHdr 3 1 true true 0 4095 0 0) [], errs := [] }
    linked s (0 : Fin 8).val = true ∧ GoodFlit f ∧ (portOf s (0 : Fin 8).val).replay.any (·.1 = flitField f.bytes 8 12) = true
      ∧ flitField f.bytes 20 12 = (flitField f.bytes 8 12 + 4095) % 4096 ∧ (portOf s (0 : Fin 8).val).waitq = [] :=
  ⟨by decide, ⟨rfl, crcOk_mkFlit _ _⟩, by decide +kernel, by decide +kernel, by decide⟩

theorem witness_LanesAndPorts_1 :
    let s := ported up0
    let q := portOf s (0 : Fin 8).val
    (s.pwr.phase = .on ∧ q.st = 2 ∧ q.pmap = none ∧ q.map.contains (3 : Fin 9).val = true)
      ∧ ((List.range 9).find? fun l => !q.map.contains l && bit q.laneOk.toNat l) = some 8 := by
  decide
/-- The spare lane is in use already. -/
theorem witness_LanesAndPorts_2 :
    let s := ported { up0 with map := [0, 1, 2, 8, 4, 5, 6, 7], laneOk := 0x1F7 }
    let q := portOf s (0 : Fin 8).val
    q.pmap = none ∧ q.map.contains (4 : Fin 9).val = true ∧ ((List.range 9).find? fun l => !q.map.contains l && bit q.laneOk.toNat l) = none := by
  decide
/-- The spare lane of an established port, and a lane of a port without a link. -/
theorem witness_LanesAndPorts_5 :
    (let s := ported up0
     s.pwr.phase = .on ∧ (match (portOf s (0 : Fin 8).val).pmap with | some m => m.1 | none => (portOf s (0 : Fin 8).val).map).contains (8 : Fin 9).val = false)
      ∧ established (portOf (ported {}) (0 : Fin 8).val) = false := by
  decide
theorem witness_LanesAndPorts_3 :
    (let s := ported { up0 with pmap := some ([0, 1, 2, 8, 4, 5, 6, 7], 1, 512) }
     s.pwr.phase = .on ∧ established (portOf s (0 : Fin 8).val) = true ∧ (portOf s (0 : Fin 8).val).pmap = some ([0, 1, 2, 8, 4, 5, 6, 7], 1, 512))
      ∧ (let q := portOf (ported { up0 with st := 1 }) (0 : Fin 8).val; q.st = 1 ∧ q.cv ≠ [0, 0, 0, 0] ∧ q.fails < 2) := by
  decide
theorem witness_LanesAndPorts_4 :
    (let s := ported { st := 4, dis := true }
     HostWrites s false ∧ (portOf s s.selH.port.toNat).dis = true ∧ portLit s s.selH.port.toNat = true)
      ∧ (let s := ported up0; HostWrites s false ∧ (portOf s s.selH.port.toNat).dis = false ∧ portLit s s.selH.port.toNat = true) :=
  ⟨⟨⟨by decide, by decide, by decide, by decide⟩, by decide, by decide⟩, ⟨⟨by decide, by decide, by decide, by decide⟩, by decide, by decide⟩⟩

/-- The served device with node 2 known as the sender of txn0. -/
def known2 : State := { served with lnk := { peers := [(2, { known := true })] } }
theorem fresh_of {s : State} {t : Txn} (h : answers s = true ∧ s.ser.rebuild = false ∧ peerOk s t = true ∧ (peerOf s t.src.toNat).answers = []) :
    FreshTxn s t := by
  refine ⟨h.1, .inl h.2.1, h.2.2.1, ?_, ?_⟩
  · simp [h.2.2.2]
  · simp [h.2.2.2, newest]

theorem witness_RemoteAccesses_1 :
    let t : Txn := { txn0 with a := 0x1000, b := 0x38, tlen := 33, body := [5] }
    FreshTxn known2 t ∧ t.ttype = 0x01 ∧ known2.mem.err = [] ∧ remoteOpen known2.cfg.conf (t.a.toNat % 2 ^ 44) 1 = true ∧ addrLost known2 (t.a.toNat % 2 ^ 44) = false :=
  ⟨fresh_of (by decide), rfl, rfl, by decide +kernel, by decide +kernel⟩
/-- A write to the management region, and a read of it. -/
theorem witness_RemoteAccesses_1' :
    remoteOpen known2.cfg.conf 0x7FFFF000 1 = false := by
  decide +kernel
theorem witness_RemoteAccesses_2 :
    let t : Txn := { txn0 with ttype := 2, a := 0x1000, b := 7 }
    FreshTxn known2 t ∧ t.ttype = 0x02 ∧ known2.mem.err = [] ∧ remoteOpen known2.cfg.conf (t.a.toNat % 2 ^ 44) (bits t.b.toNat 0 13 + 1) = true :=
  ⟨fresh_of (by decide), rfl, rfl, by decide +kernel⟩
theorem witness_RemoteAccesses_3 : FreshTxn known2 { txn0 with ttype := 7, a := 3, b := 5 } := fresh_of (by decide)
/-- A PUSH of a FENCE to stream 1, which node 2 owns. -/
def push1 : Txn := { txn0 with ttype := 5, a := 1, tlen := 288, body := recOf 0x42 0 0 0 [] }
def pushed : State :=
  { known2 with cmd := { streams := [(1, { cfg := 0x200004404, opened := true })] } }
theorem witness_RemoteAccesses_4 :
    let st := bits push1.a.toNat 0 16
    let x := strmOf pushed st
    let r := slice push1.body 0 256
    let ext := push1.body.drop 256
    let i := BitVec.ofNat 32 push1.b.toNat
    let s1 := modStrm (heard pushed push1) st fun x => { x with pi := i, ci := i }
    ready pushed = true ∧ bit x.cfg.toNat 2 = true ∧ bits x.cfg.toNat 32 16 = push1.src.toNat ∧ jUsed x < 2 ^ bits x.cfg.toNat 12 4 ∧ hasPending x = false
      ∧ pushed.esc.adopting = false ∧ x.opened = true ∧ escorted x = false ∧ pushExt pushed.cfg.conf r ext = some ext ∧ decideRec s1 st r (some ext) true = .accept := by
  decide +kernel
theorem witness_RemoteAccesses_4_fresh : FreshTxn pushed push1 ∧ push1.ttype = 0x05 := ⟨fresh_of (by decide), rfl⟩
/-- To a stream of the host's, and to one of another node. -/
theorem witness_RemoteAccesses_5 :
    FreshTxn known2 push1 ∧ bit (strmOf known2 (bits push1.a.toNat 0 16)).cfg.toNat 2 = false
      ∧ (let s : State := { known2 with cmd := { streams := [(1, { cfg := 0x300004404, opened := true })] } }
         FreshTxn s push1 ∧ bits (strmOf s (bits push1.a.toNat 0 16)).cfg.toNat 32 16 ≠ push1.src.toNat) :=
  ⟨fresh_of (by decide), by decide, fresh_of (by decide), by decide⟩

/-- A SEG of group 0 in the epoch of its a and with the number of its b. -/
def seg1 (a b : W64) : Txn := { txn0 with ttype := 0x20, a := a, b := b }
def abt1 : Txn := { txn0 with ttype := 0x21, a := 4, b := 6, body := natLe 8 0x0605 }
def coll1 : Coll := { st := 1, seq := 0, opc := 0x20, group := 0, cseq := 6, startUs := 0, gap := 0 }
/-- Group 0 of nodes 0 and 2 in epoch 4, whose number 6 is in flight. -/
def lnk4 : Lnk := { peers := [(2, { known := true })], groups := [(0, { valid := true, epoch := 4, cseq := 7, members := [0, 2] })], colls := [coll1] }
def colled : State := { run1 agr with lnk := lnk4 }
theorem witness_CollectiveTransactions_1 :
    (FreshTxn colled (seg1 4 7) ∧ (seg1 4 7).ttype = BitVec.ofNat 8 0x20 ∧ (4 : W64) = (groupOf colled (txnGroup (seg1 4 7))).epoch
        ∧ (groupOf colled (txnGroup (seg1 4 7))).cseq ≤ (7 : W64))
      ∧ (FreshTxn colled (seg1 3 7) ∧ (groupOf colled (txnGroup (seg1 3 7))).valid = true ∧ (3 : W64) < (groupOf colled (txnGroup (seg1 3 7))).epoch)
      ∧ (FreshTxn colled (seg1 4 6) ∧ (6 : W64) < (groupOf colled (txnGroup (seg1 4 6))).cseq
          ∧ (colled.lnk.colls.find? fun c => c.group = txnGroup (seg1 4 6) && c.cseq = (seg1 4 6).b) = some coll1) :=
  ⟨⟨fresh_of (by decide), by decide, by decide, by decide⟩, ⟨fresh_of (by decide), by decide, by decide⟩,
    ⟨fresh_of (by decide), by decide, by decide⟩⟩
theorem witness_CollectiveTransactions_2 :
    FreshTxn colled abt1 ∧ abt1.ttype = 0x21 ∧ coll1.group = txnGroup abt1 ∧ (groupOf colled coll1.group).valid = true
      ∧ abt1.a = (groupOf colled coll1.group).epoch ∧ abt1.b < (groupOf colled coll1.group).cseq
      ∧ (colled.lnk.colls.find? fun c => c.group = txnGroup abt1 && c.cseq = abt1.b) = some coll1 ∧ cmdOf colled coll1.st coll1.seq = some agr
      ∧ (groupOf colled coll1.group).members.findIdx? (· = abt1.src.toNat) = some 1 :=
  ⟨fresh_of (by decide), by decide, by decide, by decide, by decide, by decide, by decide, by decide +kernel, by decide⟩
/-- An entry of one member staged: the list at 0x1000 names this node, and the place of rank 1 is beyond it. -/
def staged0 (ent : W64) : State := { served with lnk := { groups := [(0, { sEnt := ent, sList := 0x1000 })] } }
theorem witness_CollectiveTransactions_3 :
    (let s := staged0 0
     let g := groupOf s s.selH.grp.toNat
     let p := bits g.sEnt.toNat 16 16 + 1
     let a := bits g.sList.toNat 0 44
     let l := (List.range p).map fun k => leNat (rd s.mem (a + 2 * k) 2)
     HostWrites s false ∧ s.mem.err = [] ∧ s.lnk.kept = [] ∧ s.job.restores = [] ∧ s.job.ask = 0 ∧ a % 64 = 0 ∧ openRange s.cfg.conf a (2 * p) = true
       ∧ g.valid = false ∧ l[bits g.sEnt.toNat 32 16]? = some s.cfg.conf.node.toNat ∧ distinct l = true
       ∧ ((s.lnk.groups.filter fun x => x.1 ≠ s.selH.grp.toNat && x.2.valid).map fun x => x.2.members.length).sum + p ≤ 1048576)
      ∧ (let s := staged0 0x100000000
         let g := groupOf s s.selH.grp.toNat
         let p := bits g.sEnt.toNat 16 16 + 1
         let a := bits g.sList.toNat 0 44
         let l := (List.range p).map fun k => leNat (rd s.mem (a + 2 * k) 2)
         openRange s.cfg.conf a (2 * p) = true ∧ l[bits g.sEnt.toNat 32 16]? ≠ some s.cfg.conf.node.toNat) :=
  ⟨⟨⟨by decide, by decide, by decide, by decide⟩, rfl, rfl, rfl, rfl, by decide, by decide +kernel, by decide, by decide, by decide, by decide⟩,
    ⟨by decide +kernel, by decide⟩⟩
theorem witness_CollectiveTransactions_4 :
    let s : State := { served with lnk := { groups := [(0, { valid := true })] } }
    HostWrites s false ∧ (groupOf s s.selH.grp.toNat).valid = true ∧ (s.lnk.colls.all fun c => c.group ≠ s.selH.grp.toNat) = true :=
  ⟨⟨by decide, by decide, by decide, by decide⟩, by decide, by decide⟩

/-! ### Witnesses: escorts and jobs -/

/-- Node 2 is escorted in slot 0. -/
def escS : State := { known2 with esc := { slots := [(0, { node := 2, st := 1 })] } }
theorem witness_EscortTransactions_1 :
    let t : Txn := { txn0 with ttype := 0x30, a := 5, b := 7, body := recOf 0x42 7 0 0 [] }
    FreshTxn escS t ∧ escSlotIx escS t.src = some 0
      ∧ (∀ x ∈ (escSlot escS 0).items, ¬(x.1 = bits t.a.toNat 0 16 ∧ x.2.1 = t.b ∧ x.2.2.1 = false)) ∧ mirrorRoom escS = true :=
  ⟨fresh_of (by decide), by decide, by decide, by decide +kernel⟩
theorem witness_EscortTransactions_2 :
    let t : Txn := { txn0 with ttype := 0x36, inc := 1, a := 2 }
    let s : State := { escS with lnk := { peers := [(2, { known := true, inc := 1 })] } }
    FreshTxn s t ∧ escSlotIx s (BitVec.ofNat 16 t.a.toNat) = some 0 ∧ (escSlot s 0).st ≠ 3 ∧ (escSlot s 0).own < t.inc ∧ (escSlot s 0).items = [] :=
  ⟨fresh_of (by decide), by decide, by decide, by decide, by decide⟩
theorem witness_EscortTransactions_3 :
    let t : Txn := { txn0 with ttype := 0x37, a := 1, b := 0, body := recOf 0x42 0 0 0 [] }
    let s : State := { known2 with cmd := { streams := [(1, { opened := true })] } }
    FreshTxn s t ∧ bit t.a.toNat 16 = false ∧ (strmOf s (bits t.a.toNat 0 16)).opened = true
      ∧ (s.esc.early.any fun x => decide (bits x.a.toNat 0 16 = bits t.a.toNat 0 16)) = false :=
  ⟨fresh_of (by decide), by decide, by decide, by decide⟩
/-- The same JOURNAL where the stream is not open yet. -/
theorem witness_EscortTransactions_5 :
    let t : Txn := { txn0 with ttype := 0x37, a := 1, b := 0, body := recOf 0x42 0 0 0 [] }
    FreshTxn known2 t ∧ (strmOf known2 (bits t.a.toNat 0 16)).opened = false ∧ t.body.length < journalLen t + 8 :=
  ⟨fresh_of (by decide), by decide, by decide +kernel⟩
theorem witness_EscortTransactions_4 :
    let s : State := { escS with lnk := { ports := [(0, up0)] } }
    answers s = true ∧ 2 ∈ beatNodes s ∧ planesTo s (BitVec.ofNat 16 2).toNat ≠ [] := by
  decide

/-- A job of nodes 0 and 2 with its parity group, one page in HBM. -/
def jr2 : JobRec := { jr with streams := [1] }
def lnkJ : Lnk := { peers := [(2, { known := true })], groups := [(5, { valid := true, members := [0, 2] }), (6, { valid := true, members := [0, 2] })] }
def jobS (j : Job) : State := { served with cfg := { st := .service, entered := true, conf := { job := some jr2 } }, lnk := lnkJ, job := j }

theorem witness_LostMovesToHold :
    let t : Txn := { txn0 with ttype := 0x35, a := 0 }
    FreshTxn known2 t ∧ BitVec.ofNat 16 t.a.toNat = known2.cfg.conf.node ∧ BitVec.ofNat 32 (t.a.toNat >>> 32) = incarnation known2 :=
  ⟨fresh_of (by decide), by decide, by decide⟩
theorem witness_JobTransactions_1 :
    let t : Txn := { txn0 with ttype := 0x38, a := 4 }
    let s := jobS { st := 1, serial := 4, cur := some { serial := 4 } }
    FreshTxn s t ∧ s.cfg.conf.job ≠ none ∧ s.job.cur = some { serial := 4 } ∧ t.a.toNat = 4 ∧ ({ t with a := 5 } : Txn).a.toNat = 4 + 1 :=
  ⟨fresh_of (by decide), by decide, by decide, by decide, by decide⟩
theorem witness_JobTransactions_2 :
    let t : Txn := { txn0 with ttype := 0x39, a := 4, b := 1 }
    let s := jobS { st := 1 }
    FreshTxn s t ∧ s.cfg.conf.job ≠ none ∧ (jobMembers s).contains t.src.toNat = true ∧ s.job.cur = none ∧ bit t.b.toNat 1 = false ∧ bit t.b.toNat 0 = true :=
  ⟨fresh_of (by decide), by decide, by decide, by decide, by decide, by decide⟩
/-- Stripe 0 holds this member's parity, stripe 1 its page. -/
theorem witness_JobTransactions_3 :
    let t : Txn := { txn0 with ttype := 0x3A, a := 4, b := 1, body := List.replicate 8192 1 }
    let s := jobS { st := 4 }
    FreshTxn s t ∧ s.cfg.conf.job = some jr2 ∧ 2 ≤ (parityGroup s).members.length ∧ bits t.b.toNat 40 8 + 2 = (parityGroup s).members.length
      ∧ s.job.st = 4 ∧ s.job.restores = [] ∧ s.job.ask = 0 ∧ s.mem.err = [] ∧ pageIn 2 0 0 = none ∧ pageIn 2 0 1 = some 0 ∧ 0 < pageCount jr2
      ∧ addrLost s (pageBase jr2 0) = false :=
  ⟨fresh_of (by decide +kernel), by decide, by decide, by decide, by decide, by decide, by decide, rfl, by decide, by decide, by decide, by decide +kernel⟩
theorem witness_JobTransactions_4 :
    let t : Txn := { txn0 with ttype := 0x3B, b := 3 }
    FreshTxn (jobS {}) t ∧ (jobS {}).cfg.conf.job ≠ none ∧ bits t.b.toNat 0 2 = 3 :=
  ⟨fresh_of (by decide), by decide, by decide⟩
theorem witness_JobTransactions_5 :
    (let s : State := { known2 with lnk := { ports := [(0, up0)] } }
     answers s = true ∧ noPort s = false ∧ escSlotIx s 2 = none ∧ s.cfg.conf.job = none)
      ∧ (let s : State := { jobS {} with lnk := { lnkJ with ports := [(0, up0)] } }
         answers s = true ∧ noPort s = false ∧ escSlotIx s 2 = none ∧ s.cfg.conf.job ≠ none ∧ (parityGroup s).members.contains (2 : NodeId).toNat = true
           ∧ (2 : NodeId) ≠ s.cfg.conf.node ∧ s.job.lostSet.contains (2, (peerOf s (2 : NodeId).toNat).inc) = false
           ∧ s.job.lostOld.contains (2, (peerOf s (2 : NodeId).toNat).inc) = false ∧ (peerOf s (2 : NodeId).toNat).lost = false) := by
  decide
theorem witness_JobTransactions_6 :
    let s : State := { jobS {} with lnk := { lnkJ with downAt := some 0 } }
    s.pwr.phase = .on ∧ s.cfg.entered = true ∧ noPort s = true ∧ s.lnk.downAt.isSome = true
      ∧ (s.cfg.conf.escEn = true ∨ s.esc.slots ≠ [] ∨ s.cfg.conf.job ≠ none) := by
  decide
theorem witness_JobTransactions_7 :
    (let s : State := { jobS { st := 2 } with lnk := { groups := [(5, { valid := true, members := [0] })] } }
     HostWrites s false ∧ (jobMembers s).all (· = s.cfg.conf.node.toNat) = true ∧ s.job.st = 2 ∧ s.job.restores = [] ∧ stillLost s = []
       ∧ s.cfg.conf.job ≠ none ∧ ((s.cfg.conf.job.map (·.p0)).getD 0) ≤ (jobMembers s).length)
      ∧ served.job.st < 2 :=
  ⟨⟨⟨by decide, by decide, by decide, by decide⟩, by decide, by decide, by decide, by decide, by decide, by decide⟩, by decide⟩

/-! ### Witnesses: answers and timers -/

theorem witness_AnswersAndTimers_1 :
    answers served = true ∧ (peerOf served txn0.src.toNat).known = false ∧ escSlotIx served txn0.src = none ∧ served.cfg.conf.escEn = false
      ∧ served.esc.former.contains txn0.src = false ∧ served.job.lostSet = [] ∧ served.job.restores = []
      ∧ served.job.ask = 0 := by
  decide
/-- A WRITE to node 2 is unanswered, which a command waits for. -/
def sent1 : Sent := { txn := { txn0 with src := 0, dst := 2, eseq := 9 }, why := .cmd 1 0, at_ := 0 }
def wtE : Entry := { sig with waits := [(2, 9)] }
def ack1 : Txn := { txn0 with ttype := 8, a := 9 }
def waiting1 (w : Purpose) : State := { run1 wtE with lnk := { sent := [{ sent1 with why := w }], ports := [(0, up0)] } }
theorem witness_AnswersAndTimers_2 :
    answerOk (waiting1 .none) ack1 = true ∧ sentTo (waiting1 .none) ack1.src (BitVec.ofNat 32 ack1.a.toNat) = some { sent1 with why := .none } := by
  decide
theorem witness_AnswersAndTimers_3 :
    let s := waiting1 (.cmd 1 0)
    answerOk s ack1 = true ∧ sentTo s ack1.src (BitVec.ofNat 32 ack1.a.toNat) = some sent1 ∧ bits ack1.b.toNat 0 16 = 0 ∧ sent1.txn.ttype ≠ 2
      ∧ cmdOf s 1 0 = some wtE ∧ wtE.waits.contains (sent1.txn.dst, sent1.txn.eseq) = true := by
  decide +kernel
theorem witness_RingInterrupts_2 (cfg : W64) (h : cfg = 0x2000000E6 ∨ cfg = 0x2000001E6 ∨ cfg = 0x2000002E6) :
    let s : State := { ringedI cfg 0 with lnk := { sent := [{ sent1 with why := .ring 0 1 }], ports := [(0, up0)] } }
    nextEntry (strmOf s (1 : StreamId).toNat) = some (0, finI 0) ∧ answerOk s ack1 = true
      ∧ sentTo s ack1.src (BitVec.ofNat 32 ack1.a.toNat) = some { sent1 with why := .ring 0 1 } ∧ bits ack1.b.toNat 0 16 = 0
      ∧ Purpose.ring 0 1 = .ring (bits (strmOf s (1 : StreamId).toNat).cfg.toNat 16 11) (1 : StreamId).toNat := by
  rcases h with rfl | rfl | rfl <;> decide +kernel
theorem witness_CompletionEntriesAreWritten_3 :
    let s : State := { ringed 0x2000000E6 with lnk := { sent := [{ sent1 with why := .ring 0 1 }], ports := [(0, up0)] } }
    (∀ f, f = 0 ∨ f = 0x0601 → let t := { ack1 with b := f }
      answerOk s t = true ∧ sentTo s t.src (BitVec.ofNat 32 t.a.toNat) = some { sent1 with why := .ring 0 1 })
      ∧ nextEntry (strmOf s (1 : StreamId).toNat) = some (0, fin1)
      ∧ Purpose.ring 0 1 = .ring (bits (strmOf s (1 : StreamId).toNat).cfg.toNat 16 11) (1 : StreamId).toNat := by
  refine ⟨?_, by decide +kernel, by decide +kernel⟩
  rintro f (rfl | rfl) <;> decide +kernel
theorem witness_AnswersAndTimers_6 :
    let s := waiting1 (.cmd 1 0)
    sentTo s 2 9 = some sent1 ∧ cmdOf s 1 0 = some wtE ∧ wtE.waits.contains ((2 : NodeId), (9 : BitVec 32)) = true ∧ s.ser.rebuild = false
      ∧ heldColl s 1 0 2 = false := by
  decide +kernel
/-- The same of a collective of an Escorted stream while the job is held for the lost node. -/
theorem witness_AnswersAndTimers_8 :
    let s : State := { waiting1 (.cmd 1 0) with
      cmd := { streams := [(1, { opened := true, cfg := 2, journal := [wtE] })] }
      job := { st := 2, lostSet := [(2, 0)] }
      lnk := { (waiting1 (.cmd 1 0)).lnk with colls := [{ st := 1, seq := 0, opc := 0x20, group := 0, cseq := 0, startUs := 0, gap := 0 }] } }
    sentTo s 2 9 = some sent1 ∧ cmdOf s 1 0 = some wtE ∧ s.ser.rebuild = false ∧ heldColl s 1 0 2 = true := by
  decide +kernel
/-- A READ of a remote COPY is unanswered: one of two, and the last one. -/
theorem witness_AnswersAndTimers_7 (l : List (NodeId × BitVec 32)) (h : l = [] ∨ l = [(2, 8)]) :
    let e : Entry := { cmd1 (recOf 0x01 0 0 0 []) with waits := (2, 9) :: l, log := [(9, [])] }
    let x : Sent := { sent1 with txn := { sent1.txn with ttype := 2 } }
    let t : Txn := { txn0 with ttype := 3, a := 9, body := [7] }
    let s : State := { run1 e with lnk := { sent := [x], ports := [(0, up0)] } }
    answerOk s t = true ∧ sentTo s t.src (BitVec.ofNat 32 t.a.toNat) = some x ∧ x.why = .cmd 1 0 ∧ x.txn.ttype = 2 ∧ bits t.b.toNat 0 16 = 0
      ∧ cmdOf s 1 0 = some e ∧ e.waits.contains (x.txn.dst, x.txn.eseq) = true ∧ (e.waits.filter (· ≠ (x.txn.dst, x.txn.eseq)) = []) = (l = [])
      ∧ e.ran = false ∧ e.stop = none := by
  rcases h with rfl | rfl <;> decide +kernel
theorem witness_AnswersAndTimers_4 :
    let s := waiting1 (.cmd 1 0)
    let t : Txn := { txn0 with ttype := 0x11, a := 9 }
    s.pwr.phase = .on ∧ bits t.b.toNat 0 16 = s.cfg.conf.node.toNat ∧ sentTo s t.src (BitVec.ofNat 32 t.a.toNat) = some sent1
      ∧ planeFrom (planesTo s sent1.txn.dst.toNat) (sent1.txn.plane.val + 1) = some 0 ∧ (unanswered s 2).findIdx (· = sent1) < 1024 := by
  decide
theorem witness_AnswersAndTimers_5 : answers served = true ∧ 0x3B < ({ txn0 with ttype := 0x3C } : Txn).ttype.toNat := by decide


/-! ### Witnesses: power, lasers and starts -/

/-- The device off with its input good, held off by an over-voltage, or by COLD_RST#. -/
def off (cause : Nat) (cold : Bool) : State := { pwr := { phase := .off, offCause := cause, coldLow := cold } }
theorem witness_InputFaultsTurnOff :
    (served.pwr.phase = .on ∧ 5800 < 5900 ∧ 6000 < 6100) ∧ ((off 2 false).pwr.phase = .off ∧ (off 2 false).pwr.offCause = 2)
      ∧ ((off 2 false).pwr.seated = true ∧ (off 2 false).pwr.coldLow = false)
      ∧ ((off 3 false).pwr.phase = .off ∧ (off 3 false).pwr.offCause = 3 ∧ (off 3 false).pwr.coldLow = false) := by
  decide
theorem witness_PowerRows_1 :
    served.pwr.phase = .on ∧ ((off 1 false).pwr.phase = .off ∧ (off 1 false).pwr.coldLow = false ∧ (off 1 false).pwr.offCause ≠ 2 ∧ (off 1 false).pwr.offCause ≠ 3)
      ∧ ((off 4 true).pwr.phase = .off ∧ (off 4 true).pwr.coldLow = true ∧ (off 4 true).pwr.seated = true ∧ 4600 < (off 4 true).pwr.vin
          ∧ (off 4 true).pwr.vin ≤ 6000 ∧ (off 4 true).pwr.offCause ≠ 2 ∧ (off 4 true).pwr.offCause ≠ 3) := by
  decide
theorem witness_PowerRows_2 :
    portLit served (0 : Fin 8).val = true ∧ (portOf served (0 : Fin 8).val).dis = false
      ∧ ({ served with clk := { refOk := true, href := true } } : State).clk.refOk = true ∧ ({ served with clk := { hold := true } } : State).clk.hold = true
      ∧ served.clk.href = false ∧ served.hif.perst = false ∧ served.ras.io0 = true ∧ served.cfg.st ≠ .powerup ∧ served.fwu.window = false := by
  decide
theorem witness_PowerRows_3 :
    (served.hif.perst = false ∧ served.fwu.window = false ∧ served.hif.up = true ∧ resettable served = true)
      ∧ (let s : State := { served with hif := { perst := true }, clk := { href := true } }
     s.hif.perst = true ∧ s.pwr.phase = .on ∧ s.clk.href = true ∧ s.ras.io0 = true ∧ s.cfg.st ≠ .powerup)
      ∧ hostOn served = true ∧ secGone served false = false ∧ ideShut served false = false := by
  decide
/-- A device in its soft start, which its input leaves. -/
theorem witness_PowerRows_4 : ({ pwr := { phase := .soft } } : State).pwr.phase ≠ .off ∧ 4500 < 4600 := by decide

theorem witness_LaserModules_1 : (bayOf served false).ok = true ∧ (bayOf served true).ok = true := by decide
theorem witness_LaserModules_2 :
    let s : State := { served with lm1 := { ok := false, pct := 0 }, lm0 := { pct := 100 } }
    s.pwr.phase = .on ∧ (bayOf s false).ok = true ∧ (bayOf s true).ok = false ∧ (bayOf s false).ramp = false := by
  decide
/-- A module that ramps beside a healthy one. -/
theorem witness_LaserModules_4 :
    let s : State := { served with lm1 := { ok := false, pct := 0, ramp := true } }
    s.pwr.phase = .on ∧ (bayOf s true).ok = false ∧ (bayOf s true).ramp = true ∧ (bayOf s (!true)).ok = true := by
  decide
theorem witness_LaserModules_3 :
    (let s : State := { served with lm1 := { ok := false, pct := 0, testing := true } }; (bayOf s true).testing = true)
      ∧ (let s : State := { served with lm1 := { ok := false, pct := 0, ramp := true } }; (bayOf s true).ramp = true ∧ (bayOf s false).ok = true)
      ∧ (let s : State := { served with lm1 := { ok := false, pct := 0, ramp := true }, lm0 := { ok := false, pct := 0 } }
         (bayOf s true).ramp = true ∧ (bayOf s false).ok = false) := by
  decide

theorem witness_StartsAndResets_1 :
    let s := State.reset
    s.pwr.phase = .on ∧ s.cfg.st = .powerup ∧ s.fwu.recovery = false ∧ s.ras.planeA.fw = [] ∧ s.ras.planeB.fw = [] ∧ s.ras.io0 = true ∧ s.ras.io1 = true
      ∧ s.fwu.last ≠ 0x080C ∧ rpmcOk s = true ∧ rpmcOk { s with flash := { s.flash with rpmc := some [] } } = false := by
  decide
theorem witness_StartsAndResets_2 :
    let s : State := { ras := { planeA := { fw := [1] } } }
    s.pwr.phase = .on ∧ s.cfg.st = .powerup ∧ s.fwu.recovery = false ∧ (activePlane s).fw ≠ [] ∧ s.lnk.kept = [] ∧ s.lnk.colls = [] := by
  decide
theorem witness_StartsAndResets_3 :
    let s : State := { cfg := { st := .selftest, tested := true } }
    s.pwr.phase = .on ∧ s.cfg.st = .selftest ∧ s.cfg.tested = true ∧ (rasOf s (3 : TileNo).toNat).st = 0 ∧ (3 : TileNo).toNat % 16 < 11
      ∧ cluUp s ((3 : TileNo).toNat / 16) = true ∧ s.cfg.served = false ∧ ({ s.cfg with served := true } : Cfg).served = true := by
  decide
theorem witness_StartsAndResets_4 :
    (let s : State := { served with cfg := { st := .service, entered := true, warmWait := true } }
     warmReady s = true ∧ s.fwu.window = false ∧ s.evd.logPos = 0 ∧ s.lnk.kept = [] ∧ s.lnk.colls = [] ∧ (s.cmd.streams.all fun x => x.2.journal.all fun e => e.log = []) = true)
      ∧ served.hif.up = true ∧ served.pwr.phase = .on ∧ resettable served = true ∧ served.fwu.window = false ∧ HostWrites served false :=
  ⟨by decide, by decide, by decide, by decide, by decide, host_served⟩

/-! ### Witnesses: firmware, configuration, the host -/

theorem witness_FirmwareUpdates_1 :
    HostWrites served false ∧ opRuns served = false
      ∧ (let src := bits served.fwu.src.toNat 0 44
         let off := bits served.fwu.len.toNat 0 12
         let n := bits served.fwu.len.toNat 16 8 + 1
         served.mem.err = [] ∧ inGeneral served.cfg.conf src (n * 4096) = true ∧ src % 4096 = 0 ∧ off + n ≤ 4096
           ∧ (served.flash.units.any fun u => off ≤ u && u < off + n) = false) :=
  ⟨host_served, by decide, by decide +kernel⟩
/-- A staged image of one byte. -/
theorem witness_FirmwareUpdates_2 :
    let s : State := { served with flash := { units := [0], stage := [(8, 1)] } }
    opRuns s = false ∧ stagedImage s 0 = some [0] ∧ romOn { s with cfg := {}, fwu := { recovery := true } } = true := by
  decide +kernel
theorem witness_FirmwareUpdates_3 :
    (let s : State := { served with fwu := { op := 1 } }; s.pwr.phase = .on ∧ (s.fwu.op = 1 ∨ s.fwu.op = 2))
      ∧ (let s : State := { served with fwu := { op := 3 } }; s.fwu.op = 3 ∧ s.fwu.recovery = false)
      ∧ (let s : State := { served with fwu := { op := 3, recovery := true } }; s.pwr.phase = .on ∧ s.fwu.op = 3 ∧ s.fwu.recovery = true)
      ∧ (let s : State := { served with cfg := { st := .service, entered := true, busy := 3 } }; s.fwu.op = 0 ∧ s.cfg.busy = 3)
      ∧ (let s : State := { served with cfg := { st := .service, entered := true, busy := 1 } }; s.fwu.op = 0 ∧ s.cfg.busy ≠ 0) ∧ consuming served = true := by
  decide
theorem witness_FirmwareUpdates_4 :
    (let s : State := { served with cfg := { st := .service, entered := true, handover := true } }
     s.cfg.handover = true ∧ consuming s = true ∧ s.lnk.kept = [] ∧ s.lnk.colls = [] ∧ s.evd.logPos = 0
       ∧ (s.cmd.streams.all fun x => x.2.journal.all fun e => e.log = []) = true)
      ∧ (let s : State := { served with fwu := { window := true, fwSel := true }, flash := { fwB := { img := [], st := 1 } } }
         HostWrites s false ∧ s.fwu.window = true ∧ s.fwu.fwSel = true ∧ (fwSlot s (!s.flash.fwIn)).st = 1 ∧ (planeOf s (!s.ras.actB)).st = 0
           ∧ s.lnk.kept = [] ∧ s.lnk.colls = [])
      ∧ (let s : State := { served with fwu := { window := true, cfgSel := true }, flash := { cfgB := { img := [], st := 1 } } }
         HostWrites s false ∧ s.fwu.window = true ∧ s.fwu.cfgSel = true ∧ (cfgSlot s (!s.flash.cfgIn)).st = 1)
      ∧ (let s : State := { served with ras := { planeB := { st := 3 } } }; serviceOn s = true ∧ (planeOf s (!s.ras.actB)).st = 3 ∧ s.ras.io1 = true)
      ∧ (let s : State := { served with cfg := { st := .selftest }, flash := { fwB := { st := 1 } } }
         HostWrites s false ∧ handoverStatus s true false = 0 ∧ consuming s = false) :=
  ⟨by decide, ⟨⟨by decide, by decide, by decide, by decide⟩, by decide, by decide, by decide, by decide, rfl, rfl⟩,
    ⟨⟨by decide, by decide, by decide, by decide⟩, by decide, by decide, by decide⟩, by decide, ⟨by decide, by decide, by decide, by decide⟩, by decide, by decide⟩

theorem witness_ConfigurationAndMaintenance :
    (let s : State := { served with flash := { units := [0], stage := [(8, 1)] } }
     HostWrites s false ∧ cfgMay s = true ∧ opRuns s = false ∧ stagedImage s 0 = some [0])
      ∧ served.cfg.st = .service ∧ (HostWrites maint false ∧ maint.cfg.st = .maintenance) :=
  ⟨⟨⟨by decide, by decide, by decide, by decide⟩, by decide, by decide, by decide +kernel⟩, by decide, ⟨by decide, by decide, by decide, by decide⟩, by decide⟩

theorem witness_HostAccesses_1 :
    hostOn served = true ∧ secGone served false = false ∧ ideShut served false = false ∧ served.fwu.recovery = false ∧ (0 : Fin 3).val ≠ 2
      ∧ (!((4 = 4 || 4 = 8) && 0x30 % 4 = 0)) = false ∧ inHold served = false ∧ served.cfg.entered = true
      ∧ (let s : State := { served with cfg := { st := .hold } }; hostOn s = true ∧ inHold s = true ∧ (regWr 0x30 4 1).off ≠ 0xA00008 ∧ s.cfg.entered = false) := by
  decide
theorem witness_HostAccesses_2 :
    inGeneral served.cfg.conf 0x1000 2 = true ∧ ([1, 2] : List Byte).length ≤ page - 0x1000 % page ∧ served.mem.err = []
      ∧ addrLost served 0x1000 = false ∧ ∀ i, i < 2 → addrLost served (0x1000 + i) = false := by
  decide +kernel
/-- A read of one register without selections, a write of PWR_CAP_USER, and a body of another form. -/
theorem witness_HostAccesses_3 :
    mgmtOn served = true ∧ mctpParse 1 ([1, 0] ++ natLe 4 0 ++ [1]) served.selM = some (served.selM, 0, 1, 0)
      ∧ mctpParse 2 ([2, 0] ++ natLe 4 0xA00008 ++ [1] ++ natLe 8 500) served.selM = some (served.selM, 0xA00008, 1, 500)
      ∧ mctpParse 1 [1] served.selM = none := by
  decide +kernel

theorem witness_SpdmAndIde_1 :
    spdmOn served .doe = true ∧ signOk served = true ∧ newSession served true = some 0 ∧ served.cfg.handover = false
      ∧ ({ served with cfg := { st := .service, entered := true, handover := true } } : State).cfg.handover = true
      ∧ ({ served with sec := { half := [(true, 0)] } } : State).sec.half.contains (true, 0) = true := by
  decide
theorem witness_SpdmAndIde_2 :
    let s : State := { served with sec := { sess := [(true, 0)], ide := 1 }, hif := { up := true, flit := true } }
    spdmOn s .doe = true ∧ s.sec.sess.contains (true, 0) = true ∧ signOk s = true ∧ s.hif.flit = true ∧ hostOn s = true
      ∧ bit s.sec.ide.toNat (0 : Fin 5).val = true := by
  decide

/-- The boundary values of the ranges. -/
theorem witness_SymbolCodeCorrects : (35 : Nat) < 36 ∧ (15 : Nat) < 16 ∧ (0 : Nat) < 36 ∧ (0 : Nat) < 16 := by decide

/-! ### The spec's worked examples -/

/-- R272: the example after R273. -/
theorem test_serai_map : seraiMap 0x12345678 = (1, 0x048D1678, 0x6D, 0x1234) ∧ (seraiMap 0x12346678).1 = 2 := by decide +kernel
/-- R288: the example. -/
theorem test_hbm_map : hbmMap 0x12A00004300 = (3, 1, 0x30000200) := by decide +kernel
/-- R291: column 5 and the check symbols of the example. -/
theorem test_symbol_code :
    column 5 = (1, 0x5, 0x2, 0xE)
      ∧ encodeSyms ((List.range 32).map fun i => if i = 5 then 3 else 0) = [0xB, 0xA, 0xF, 0x6]
      ∧ decodeSyn (0x3, 0xF, 0x6, 0x1) = .fix 5 3 := by
  decide +kernel
/-- R116: the vectors V1 to V3. -/
theorem test_dither :
    dither 0x200000001 3 1 0 0 0 0 = 0x5B03C3F3 ∧ dither 0x200000001 3 1 0 5 7 9 = 0x59DDC42D
      ∧ dither 0x200000001 3 1 0 5 7 0xFFFFFFFF = 0xE56A7DBA := by
  decide +kernel
/-- R138, R139: the example's words 0x800 and 0x801. -/
theorem test_residue : residue 0x800 = 16 ∧ carried 0x800 = 16 ∧ residue 0x801 = 17 := by decide +kernel
/-- R108: the anchor of FP8 E4M3 by E4M3 without scales is −18. -/
theorem test_anchor : deriveAnchor 4 4 false false 0 0 = -18 := by decide +kernel
/-- R374: the example's block of 16 words. -/
theorem test_tle :
    tleEncode ((List.range 16).map fun i =>
        { LWord.zero 0 with val := [100, -3, 0, 70000, -70000].getD i 0, rnd := true, terms := 12 })
      = [0x03, 0x40, 0x0C, 0, 0, 0, 0, 0, 0x64, 0, 0, 0xFD, 0xFF, 0xFF, 0, 0, 0, 0x70, 0x11, 0x01, 0x90, 0xEE, 0xFE] ++ List.replicate 33 0 := by
  decide +kernel
/-- R317 to R319: the two steps of the SGD-M example under W16-RT. -/
theorem test_sgd_w16rt :
    let o : OptPar := { adam := false, lr := 0x3A800000, b1 := 0x3F666666, b2 := 0, eps := 0, wd := 0, c1 := 0, c2 := 0, mode := 1,
                        lsInv := 0x3A800000, d := 1 }
    let g := (optGrad o 8 0x4400).1
    let a := optAlgo o (optWork 1 8 0x3F80 0) 0 0 g
    let b := optAlgo o (optWork 1 8 0x3F80 0xF0) (0x3F00 <<< 16) 0 g
    g = 0x3F000000 ∧ a.2.1 = 0x3F000000 ∧ ((optSplit 1 8 false 0 a.1).1, (optSplit 1 8 false 0 a.1).2.1) = (0x3F80, 0xF0)
      ∧ ((optSplit 1 8 false 0 b.1).1, (optSplit 1 8 false 0 b.1).2.1) = (0x3F80, 0xD2) := by
  decide +kernel
/-- R523: the NODE record of the example in section 14. -/
theorem test_node_record :
    (recsOf (List.replicate 0x80 0 ++ [1, 0, 1, 0, 8, 0, 0, 0, 7, 1, 3, 0, 0x11, 0, 0, 0] ++ List.replicate 96 0)).map
        (fun l => let c := confOf l; (c.node, c.domain, c.feed)) = some (0x0107, 0x0003, 0x0011) := by
  decide +kernel
/-- R445, R506, R305, R270: registers of a part that has just entered POWERUP read as their tables' reset columns say. -/
theorem test_reset_registers :
    readReg State.reset {} 0x900000 = 0xfff00fffffff00 ∧ readReg State.reset {} 0xA00000 = 0x280014320
      ∧ readReg State.reset {} 0x400008 = 0 := by
  decide +kernel
end

section
/-! PROOFS. Command streams: where records wait (R194), and when a ring's vector fires (R239). -/

namespace Sys2Proof.Machine

/-! ### Consumption outside SERVICE and MAINTENANCE -/

/-- In its consume phase every record row consumes by the row's key (R213). -/
theorem exec_recordRow_consume (s : State) (st : StreamId) :
    ∀ k ∈ recordRows, exec (k.2 st .consume) s = .next (consumeRow s st.toNat k.1) := by
  simp only [recordRows, List.cons_append, List.nil_append, List.forall_mem_cons, List.not_mem_nil, false_imp_iff, implies_true, and_true]
  and_intros <;> rfl

theorem mayConsume_of_not_consuming {s : State} (h : consuming s = false) (n : Nat) : mayConsume s n = false := by
  simp [mayConsume, ready, h]

theorem consume_of_not_mayConsume {s : State} {n : Nat} (h : mayConsume s n = false) (want : State → List Byte → Bool → Bool) :
    consume s n want = s := by
  simp [consume, h]

/-- Outside SERVICE and MAINTENANCE no queue is consumed, whatever the row wants (R194). -/
theorem consume_of_not_consuming {s : State} (h : consuming s = false) (n : Nat) (want : State → List Byte → Bool → Bool) :
    consume s n want = s :=
  consume_of_not_mayConsume (mayConsume_of_not_consuming h n) want

/-- Settles O8: each of the rows is a consumption, and none is due while `consuming` is false. -/
theorem recordsWaitOutsideService : Obligations.RecordsWaitOutsideService := by
  intro s st hservice hmaint
  have hc : consuming s = false := by simp [consuming, hservice, hmaint]
  refine ⟨fun k hk => ?_, ?_, ?_⟩
  · rw [exec_recordRow_consume s st k hk, consumeRow, consume_of_not_consuming hc]
  · exact congrArg Host.Outcome.next (consume_of_not_consuming hc _ _)
  · exact congrArg Host.Outcome.next (consume_of_not_consuming hc _ _)

/-! ### What a store changes where memory lists no error -/

/-- At most memory, the counters of the Serai and of HBM, the snapshots' copies and the free values drawn differ. -/
def OnlyStored (s t : State) : Prop := t = { s with mem := t.mem, ser := t.ser, hbm := t.hbm, job := t.job, free := t.free }

theorem OnlyStored.refl (s : State) : OnlyStored s s := rfl

theorem OnlyStored.trans {s t u : State} (h : OnlyStored s t) (g : OnlyStored t u) : OnlyStored s u := by
  unfold OnlyStored at *
  rw [g, h]

/-- Steps that store do so one after the other, where each keeps what they need. -/
theorem onlyStored_foldl {β : Type} {p : State → Prop} {f : State → β → State} (hf : ∀ s b, p s → p (f s b) ∧ OnlyStored s (f s b))
    (l : List β) {s : State} (h : p s) : p (l.foldl f s) ∧ OnlyStored s (l.foldl f s) := by
  induction l generalizing s with
  | nil => exact ⟨h, .refl s⟩
  | cons b r ih =>
    obtain ⟨hp, hs⟩ := hf s b h
    obtain ⟨hp', hs'⟩ := ih hp
    exact ⟨hp', hs.trans hs'⟩

theorem addBw_onlyStored (s : State) (k c n : Nat) : OnlyStored s (addBw s k c n) := by
  unfold addBw
  split <;> rfl

theorem addStk_onlyStored (s : State) (k : Nat) (w : Bool) (n : Nat) : OnlyStored s (addStk s k w n) := by
  unfold addStk
  split <;> rfl

theorem addSomeStk_onlyStored (s : State) (w : Bool) (n : Nat) : OnlyStored s (addSomeStk s w n) :=
  .trans (t := { s with free := s.free + 1 }) rfl (addStk_onlyStored ..)

theorem tally_onlyStored (s : State) (c : Nat) (w : Bool) (a n : Nat) : OnlyStored s (tally s c w a n) := by
  unfold tally
  split
  · rfl
  · split
    · exact (onlyStored_foldl (p := fun _ => True) (fun s _ _ => ⟨trivial, addBw_onlyStored s ..⟩) _ trivial).2
    · split
      · exact addStk_onlyStored ..
      · rfl

theorem copyPage_clean {s : State} (h : s.mem.err = []) (jr : JobRec) (p : Nat) :
    (copyPage s jr p).mem = s.mem ∧ OnlyStored s (copyPage s jr p) := by
  unfold copyPage
  simp only [errWords_nil h, List.foldl_nil]
  split
  · exact ⟨by rw [addSomeStk_mem, tally_mem], (tally_onlyStored ..).trans (addSomeStk_onlyStored ..)⟩
  · exact ⟨by rw [addStk_mem, addStk_mem], (addStk_onlyStored ..).trans (addStk_onlyStored ..)⟩

theorem touch_clean {s : State} (a : Nat) (h : s.mem.err = []) : (touch s a).mem.err = [] ∧ OnlyStored s (touch s a) := by
  unfold touch
  split
  · rename_i jr p _ _
    obtain ⟨hm, hs⟩ := copyPage_clean h jr p
    extract_lets new s' j f
    split
    · exact ⟨h, .refl s⟩
    · exact ⟨(congrArg Mem.err hm).trans h, hs.trans rfl⟩
  · exact ⟨h, .refl s⟩

theorem touchAll_clean {s : State} (a n : Nat) (h : s.mem.err = []) : (touchAll s a n).mem.err = [] ∧ OnlyStored s (touchAll s a n) := by
  unfold touchAll
  split
  · exact ⟨h, .refl s⟩
  · exact onlyStored_foldl (p := fun s => s.mem.err = []) (fun _ _ => touch_clean _) _ h

theorem storeErrs_clean {s : State} (h : s.mem.err = []) (a n : Nat) : storeErrs s a n = s := by
  rw [storeErrs, errWords_nil h, List.foldl_nil]

/-- A store that meets no listed error sends nothing, fires nothing and touches no configuration. -/
theorem store_onlyStored {s : State} (h : s.mem.err = []) (a : Nat) (d : List Byte) : OnlyStored s (store s a d) := by
  unfold store
  split
  · rfl
  · split
    · rfl
    · obtain ⟨he, hs⟩ := touchAll_clean a d.length h
      dsimp only
      rw [storeErrs_clean he]
      exact hs.trans rfl

/-! ### What a fired vector depends on -/

/-- What decides whether a vector's message can be sent, the messages sent and the configuration are as before. -/
structure SameIrq (s t : State) : Prop where
  hif : t.hif = s.hif
  ras : t.ras = s.ras
  cfg : t.cfg = s.cfg
  msi : t.out.msi = s.out.msi

theorem SameIrq.refl (s : State) : SameIrq s s := ⟨rfl, rfl, rfl, rfl⟩

theorem SameIrq.trans {s t u : State} (h : SameIrq s t) (g : SameIrq t u) : SameIrq s u :=
  ⟨g.hif.trans h.hif, g.ras.trans h.ras, g.cfg.trans h.cfg, g.msi.trans h.msi⟩

theorem SameIrq.pba {s t : State} (h : SameIrq s t) : t.hif.pba = s.hif.pba := congrArg Hif.pba h.hif

theorem OnlyStored.sameIrq {s t : State} (h : OnlyStored s t) : SameIrq s t := by
  rw [OnlyStored] at h
  rw [h]
  exact ⟨rfl, rfl, rfl, rfl⟩

theorem OnlyStored.cmd {s t : State} (h : OnlyStored s t) : t.cmd = s.cmd := by
  rw [OnlyStored] at h
  rw [h]

theorem sendTxn_sameIrq (s : State) (ty vc : Nat) (dst : NodeId) (a b : W64) (body : List Byte) (why : Purpose) :
    SameIrq s (sendTxn s ty vc dst a b body why) := by
  obtain ⟨P, Q, O, x, h, _, _, _, _, _, hmsi⟩ := sendTxn_frame s ty vc dst a b body why
  rw [h]
  exact ⟨rfl, rfl, rfl, hmsi⟩

/-- Settling an answered transaction fires nothing and leaves the streams and rings (R355). -/
theorem dropSent_sameIrq (s : State) (x : Sent) : SameIrq s (dropSent s x) ∧ (dropSent s x).cmd = s.cmd := by
  unfold dropSent
  extract_lets l i _ u
  have hu : SameIrq s u ∧ u.cmd = s.cmd := ⟨⟨rfl, rfl, rfl, rfl⟩, rfl⟩
  split
  · rename_i w _
    split
    · obtain ⟨P, O, m, h, _, _, hmsi⟩ := emit_frame u w.txn w.txn.plane.val
      rw [h]
      exact ⟨⟨rfl, rfl, rfl, hmsi⟩, rfl⟩
    · exact hu
  · exact hu

/-- A vector that fires sends its message or is left pending (R574, R575). -/
theorem fired_fire (s : State) (v : Nat) : Fired v s (fire s v) := by
  unfold Fired fire
  split
  · exact ⟨rfl, rfl⟩
  · split
    · rename_i h
      exact ⟨rfl, List.contains_iff_mem.mp h⟩
    · exact ⟨rfl, List.mem_cons_self⟩

theorem fire_cfg (s : State) (v : Nat) : (fire s v).cfg = s.cfg := by
  unfold fire
  split
  · rfl
  · split <;> rfl

/-- What R239 asks between two states holds between any two that show the same. -/
theorem FiredFor.of_sameIrq {r : Ring} {e : Entry} {s u v t : State} (hs : SameIrq s u) (h : FiredFor r e u v) (ht : SameIrq v t) :
    FiredFor r e s t := by
  unfold FiredFor Fired hostReady vecMasked at *
  rw [ht.pba, ht.msi, ← hs.hif, ← hs.ras, ← hs.msi]
  exact h

/-- The device's choice by irq_mode and the record's irq is the one of R239. -/
theorem firedFor_fire (r : Ring) (e : Entry) (s : State) :
    FiredFor r e s (if bits r.cfg.toNat 8 2 = 0 || (bits r.cfg.toNat 8 2 = 1 && rIrq e.bytes) then fire s (bits r.cfg.toNat 16 11) else s) := by
  have hf := fired_fire s (bits r.cfg.toNat 16 11)
  unfold FiredFor
  split <;> rename_i hmode <;> simp only [Bool.or_eq_true, Bool.and_eq_true, decide_eq_true_eq] at hmode
  · refine ⟨fun _ => hf, fun hn => ?_⟩
    rcases hn with h2 | ⟨h1, hirq⟩
    · omega
    · simp [h1, hirq] at hmode
  · exact ⟨fun hy => absurd hy hmode, fun _ => ⟨rfl, rfl⟩⟩

/-! ### The entry of a ring and its vector -/

/-- Once an entry is written its ring's vector fires as irq_mode says, and the configuration stays as it was. -/
theorem afterEntry_firedFor (s : State) (n i : Nat) (e : Entry) :
    FiredFor (ringOf s (bits (strmOf s n).cfg.toNat 16 11)) e s (afterEntry s n i e) ∧ (afterEntry s n i e).cfg = s.cfg := by
  unfold afterEntry
  extract_lets x ri r img s1 s2 s3 mode s4
  have h2 : SameIrq s s2 := by unfold s2; split <;> exact ⟨rfl, rfl, rfl, rfl⟩
  have h3 : SameIrq s s3 := h2.trans ⟨rfl, rfl, rfl, rfl⟩
  have h4 : FiredFor r e s3 s4 := firedFor_fire r e s3
  have hc4 : s4.cfg = s.cfg := by
    unfold s4
    split
    · exact (fire_cfg ..).trans h3.cfg
    · exact h3.cfg
  split
  · exact ⟨.of_sameIrq h3 h4 (sendTxn_sameIrq ..), (sendTxn_sameIrq ..).cfg.trans hc4⟩
  · exact ⟨.of_sameIrq h3 h4 (.refl s4), hc4⟩

/-- The same of an entry that was first put in its place by a step that changes no stream, no ring and no interrupt. -/
theorem afterEntry_firedFor_of_sameIrq {s u : State} (hc : u.cmd = s.cmd) (hu : SameIrq s u) (n i : Nat) (e : Entry) :
    FiredFor (ringOf s (bits (strmOf s n).cfg.toNat 16 11)) e s (afterEntry u n i e) ∧ (afterEntry u n i e).cfg = s.cfg := by
  obtain ⟨h, hcfg⟩ := afterEntry_firedFor u n i e
  have hr : ringOf u (bits (strmOf u n).cfg.toNat 16 11) = ringOf s (bits (strmOf s n).cfg.toNat 16 11) := by
    unfold ringOf strmOf
    rw [hc]
  rw [hr] at h
  exact ⟨.of_sameIrq hu h (.refl _), hcfg.trans hu.cfg⟩

/-- A ready entry with room in its ring goes to its place: to another node as a WRITE that fires nothing yet, else to host memory or the
device's, after which it is written (R237, R240). -/
theorem writeEntry_due {s : State} {n i : Nat} {e : Entry} {r : Ring} (hr : ringOf s (bits (strmOf s n).cfg.toNat 16 11) = r)
    (hreb : s.ser.rebuild = false) (hnext : nextEntry (strmOf s n) = some (i, e)) (hready : entryReady s n e = true)
    (hroom : ringRoom s r = true) (herr : s.mem.err = []) :
    if bit r.cfg.toNat 5 && bit r.cfg.toNat 6 then SameIrq s (writeEntry s n)
    else ∃ u, u.cmd = s.cmd ∧ SameIrq s u ∧ writeEntry s n = afterEntry u n i e := by
  simp only [writeEntry, hr, hnext, hready, hroom, hreb, Bool.not_true, Bool.or_false, Bool.false_eq_true, if_false]
  cases hloc : bit r.cfg.toNat 5
  case false => exact ⟨hostWrite s _ _, rfl, ⟨rfl, rfl, rfl, rfl⟩, rfl⟩
  case true =>
    cases hrem : bit r.cfg.toNat 6
    case false =>
      have hs (a : Nat) (d : List Byte) : OnlyStored s (store (tally s 5 true a 32) a d) :=
        (tally_onlyStored ..).trans (store_onlyStored (by rw [tally_mem, herr]) ..)
      exact ⟨_, (hs _ _).cmd, (hs _ _).sameIrq, rfl⟩
    case true => exact .trans (t := modRing s _ fun r => { r with busy := true }) ⟨rfl, rfl, rfl, rfl⟩ (sendTxn_sameIrq ..)

theorem tryLeave_of_maintReq_ne {s : State} (h : s.cfg.maintReq ≠ 2) : tryLeave s = s := by
  simp [tryLeave, h]

theorem answered_ring {x : Sent} {ri n : Nat} (h : x.why = .ring ri n) (s : State) (f : Nat) (body : List Byte) :
    answered s x f body = ringAnswer (dropSent s x) ri n f := by
  simp only [answered, h]

theorem ringAnswer_zero {s : State} {n i : Nat} {e : Entry} (h : nextEntry (strmOf s n) = some (i, e)) (ri : Nat) :
    ringAnswer s ri n 0 = afterEntry s n i e := by
  simp [ringAnswer, h]

/-- The answer to a ring's WRITE is taken in HOLD too: only a MIRROR's answer decides nothing there (R51). -/
theorem takeAnswer_ring {s : State} {t : Txn} {x : Sent} {ri n : Nat} (hok : answerOk s t = true)
    (hsent : sentTo s t.src (BitVec.ofNat 32 t.a.toNat) = some x) (hwhy : x.why = .ring ri n) (f : Nat) :
    takeAnswer s t f = ringAnswer (dropSent (heard s t) x) ri n f := by
  have hsent' : sentTo (heard s t) t.src (BitVec.ofNat 32 t.a.toNat) = some x := hsent
  simp only [takeAnswer, hok, hsent', hwhy, answered_ring hwhy, Bool.not_true, Bool.and_false, Bool.false_eq_true, if_false]

/-- An acknowledgement of a ring's WRITE without a fault settles the entry that waits for it (R240, R355). -/
theorem exec_ack_ring {s : State} {t : Txn} {x : Sent} {ri n i : Nat} {e : Entry} (hok : answerOk s t = true)
    (hsent : sentTo s t.src (BitVec.ofNat 32 t.a.toNat) = some x) (hwhy : x.why = .ring ri n) (hst : bits t.b.toNat 0 16 = 0)
    (hnext : nextEntry (strmOf s n) = some (i, e)) :
    exec (.ack t) s = .next (afterEntry (dropSent (heard s t) x) n i e) := by
  have hcmd : (dropSent (heard s t) x).cmd = s.cmd := (dropSent_sameIrq (heard s t) x).2
  have hnext' : nextEntry (strmOf (dropSent (heard s t) x) n) = some (i, e) := by rw [← hnext, strmOf, hcmd, strmOf]
  change Host.Outcome.next (takeAnswer s t (bits t.b.toNat 0 16)) = _
  rw [takeAnswer_ring hok hsent hwhy, hst, ringAnswer_zero hnext']

/-- Settles O27, by the case of the ring's place and, for a ring on another node, by the entry that its acknowledgement writes. -/
theorem ringInterrupts : Obligations.RingInterrupts := by
  refine ⟨?_, ?_⟩
  · intro s st i e x r hreb hnext hready hroom herr
    have hdue := writeEntry_due rfl hreb hnext hready hroom herr
    refine ⟨writeEntry s st.toNat, rfl, ?_⟩
    split at hdue
    · rename_i hrem
      exact ⟨fun hm => tryLeave_of_maintReq_ne (by rwa [hdue.cfg]), by rw [if_pos hrem]; exact ⟨hdue.msi, hdue.pba⟩⟩
    · rename_i hrem
      obtain ⟨u, hcmd, hirq, hu⟩ := hdue
      obtain ⟨hfired, hcfg⟩ := afterEntry_firedFor_of_sameIrq hcmd hirq st.toNat i e
      rw [hu]
      exact ⟨fun hm => tryLeave_of_maintReq_ne (by rwa [hcfg]), by rw [if_neg hrem]; exact hfired⟩
  · intro s st i e t x ri hnext hok hsent hwhy hst
    obtain ⟨hirq, hcmd⟩ := dropSent_sameIrq (heard s t) x
    have hheard : SameIrq s (heard s t) := ⟨rfl, rfl, rfl, rfl⟩
    exact ⟨_, exec_ack_ring hok hsent hwhy hst hnext, (afterEntry_firedFor_of_sameIrq (s := s) hcmd (hheard.trans hirq) st.toNat i e).1⟩

end Sys2Proof.Machine
end

section
/-! PROOFS. Start-up: memory after a cold start (R512). -/

namespace Sys2Proof.Machine

/-! ### Memory that lists nothing -/

/-- An unlisted byte is zero (R512). -/
theorem rdB_of_cells_nil {m : Mem} (h : m.cells = []) (a : Nat) : rdB m a = 0 := by
  rw [rdB, h]
  rfl

/-- A word without a listed error pattern is good. -/
theorem badWord_of_err_nil {m : Mem} (h : m.err = []) (w : Nat) : badWord m w = false := by
  rw [badWord, h]
  rfl

/-- A loss of power leaves nothing listed in memory (R8, R512). -/
@[simp] theorem coldState_mem (s : State) (p : PPower) : (coldState s p).mem = { cells := [], err := [] } := rfl

@[simp] theorem powerUp_mem (s : State) : (powerUp s).mem = { cells := [], err := [] } := coldState_mem _ _

/-! ### The rows that turn a device on -/

/-- What a row that may turn a device on leaves of one that is off: it stays off, or its soft start begins (R489). -/
def OffOrStarted (t : State) : Prop := t.pwr.phase = .off ∨ ∃ u, t = powerUp u

theorem offOrStarted_ite {c : Prop} [Decidable c] (u : State) {v : State} (hv : v.pwr.phase = .off) :
    OffOrStarted (if c then powerUp u else v) := by
  split
  · exact .inr ⟨u, rfl⟩
  · exact .inl hv

section
variable {s : State} (hoff : s.pwr.phase = .off)
include hoff

theorem exec_softStart_of_off (vin : Nat) : ∃ t, exec (.softStart vin) s = .next t ∧ OffOrStarted t := by
  refine ⟨_, rfl, ?_⟩
  rw [if_neg (not_not_intro hoff)]
  exact offOrStarted_ite _ hoff

theorem exec_inputRestart_of_off (vin : Nat) : ∃ t, exec (.inputRestart vin) s = .next t ∧ OffOrStarted t := by
  refine ⟨_, rfl, ?_⟩
  split
  · exact .inl hoff
  · exact offOrStarted_ite _ hoff

theorem exec_coldRstRelease_of_off : ∃ t, exec .coldRstRelease s = .next t ∧ OffOrStarted t := by
  refine ⟨_, rfl, ?_⟩
  split
  · exact .inl hoff
  · exact offOrStarted_ite _ hoff

theorem exec_startRow_of_off {vin : Nat} {c : Instr} (hc : c ∈ [Instr.softStart vin, .inputRestart vin, .coldRstRelease]) :
    ∃ t, exec c s = .next t ∧ OffOrStarted t := by
  simp only [List.mem_cons, List.not_mem_nil, or_false] at hc
  obtain rfl | rfl | rfl := hc
  · exact exec_softStart_of_off hoff vin
  · exact exec_inputRestart_of_off hoff vin
  · exact exec_coldRstRelease_of_off hoff

end

/-- Settles O2: a row that turns the device on has begun a soft start, and that leaves nothing listed in memory. -/
theorem coldStartMemoryReadsZero : Obligations.ColdStartMemoryReadsZero := by
  intro s t vin c hc hexec hoff hon
  obtain ⟨t', hexec', hstart⟩ := exec_startRow_of_off hoff hc
  obtain rfl : t' = t := Host.Outcome.next.inj (hexec'.symm.trans hexec)
  obtain ⟨u, rfl⟩ := hstart.resolve_left hon
  exact ⟨rdB_of_cells_nil (by simp), badWord_of_err_nil (by simp)⟩

end Sys2Proof.Machine
end
